-- ==== Sys2Proof/Word.lean ====
section
/-!
DEFINITION. The word types of the engine. A bit string of n bits (00_scope.md R8, R9) is a `BitVec n` whose string bit
⟨0⟩ is the most significant bit, so that the hex spelling of the string is the hex spelling of the number.
-/

namespace Sys2Proof

/-- A byte of a buffer (20_memory.md R48). -/
abbrev Byte := BitVec 8

/-- A 32-bit word of the host bus (10_state.md R14). -/
abbrev Word := BitVec 32

/-- A 64-bit block (00_scope.md R3). -/
abbrev Block := BitVec 64

/-- A 48-bit round subkey (00_scope.md R3). -/
abbrev Subkey := BitVec 48

end Sys2Proof
end

