-- ==== Sys2Proof/Syntax.lean ====
section
/-!
DEFINITION. The commands of the engine (30_encoding.md R67), one constructor per row of the opcode table, and the
transactions a host program is made of (30_encoding.md R71, R72).
-/

namespace Sys2Proof

/-- The eight commands (30_encoding.md R67). A command word has no operand field (R65), so no constructor has an
argument: operands come from registers and buffers (R68). -/
inductive Instr where
  /-- 41_key_schedule.md R95 -/
  | keygen
  /-- 43_block_cipher.md R110 -/
  | blockEnc
  /-- 43_block_cipher.md R111 -/
  | blockDec
  /-- 44_cbc_padding.md R125 -/
  | pad
  /-- 44_cbc_padding.md R126 -/
  | unpad
  /-- 44_cbc_padding.md R127 -/
  | encrypt
  /-- 44_cbc_padding.md R128 -/
  | decrypt
  /-- 44_cbc_padding.md R129 -/
  | verify
deriving DecidableEq, Repr, Inhabited

/-- The width of a host access. Only `word` has a meaning (20_memory.md R55). -/
inductive Width where
  | byte
  | half
  | word
deriving DecidableEq, Repr, Inhabited

/-- A host transaction (30_encoding.md R71, R72): the only "instructions" a host gives the engine. The offset counts bytes from
BASE; the register block lies at 0x0000 to 0x3FFF (10_state.md R14), and an access beyond it is log 21. The width is held so
that the accesses the spec refuses (20_memory.md R55) can be written down. -/
inductive HostOp where
  /-- `WR off, data` -/
  | write (width : Width) (off : Nat) (data : Word)
  /-- `RD off` -/
  | read (width : Width) (off : Nat)
  /-- `POLL off, mask, val`: repeat the read until `(result & mask) = val` -/
  | poll (off : Nat) (mask val : Word)
deriving DecidableEq, Repr

/-- Whose turn a step is: the interleaving of host accesses, engine micro-steps and the reset input (20_memory.md R60,
70_reset_and_hazards.md R151) is a list of these. -/
inductive Turn where
  /-- the host makes its next access -/
  | host
  /-- the engine makes one micro-step -/
  | engine
  /-- the reset input is asserted -/
  | reset
deriving DecidableEq, Repr, Inhabited

end Sys2Proof
end

