-- ==== Sys2Proof/WellFormed.lean ====
section
/-!
DEFINITION. Which command words and host transactions are well formed: the shape rules of 30_encoding.md R65, R66 and
20_memory.md R55.
-/

namespace Sys2Proof

/-- Every command is well formed: it has no operand fields that could be out of range (30_encoding.md R65). -/
def Instr.wf (_ : Instr) : Bool := true

/-- `w[31:4] = 0`, the must-be-zero field of the command word (30_encoding.md R65). -/
def Word.mbzOk (w : Word) : Bool := w.extractLsb' 4 28 == 0#28

/-- `w[3:0]` is one of 0x1 to 0x8 (30_encoding.md R66). -/
def Word.opOk (w : Word) : Bool := 1 ≤ (w.extractLsb' 0 4).toNat && (w.extractLsb' 0 4).toNat ≤ 8

/-- A command word is valid when both fields are (30_encoding.md R66). -/
def Word.cmdWf (w : Word) : Bool := Word.mbzOk w && Word.opOk w

/-- Only 32-bit accesses have a meaning (20_memory.md R55). -/
def Width.ok : Width → Bool
  | .word => true
  | .byte => false
  | .half => false

/-- An access offset is a multiple of 4 (20_memory.md R55). -/
def alignedOffset (off : Nat) : Bool := off % 4 == 0

/-- A host transaction is well formed when it is a 32-bit access at an aligned offset (20_memory.md R55). -/
def HostOp.wf : HostOp → Bool
  | .write width off _ => width.ok && alignedOffset off
  | .read width off => width.ok && alignedOffset off
  | .poll off _ _ => alignedOffset off

end Sys2Proof
end

