-- ==== Sys2Proof/Decode.lean ====
section
/-!
DEFINITION. The command decoder (30_encoding.md R65 to R70), total on every 32-bit word, and the encoder.
-/

namespace Sys2Proof

/-- Why a command word is illegal (30_encoding.md R69). Each kind is rejected with BAD_COMMAND. -/
inductive DecodeError where
  /-- a nonzero bit in [31:4] -/
  | mustBeZero
  /-- OP = 0x0: not a no-operation -/
  | opZero
  /-- OP = 0x9 to 0xF -/
  | opReserved
deriving DecidableEq, Repr

/-- What the decoder answers: a command, or why there is none. -/
inductive Decoded where
  | ok (i : Instr)
  | illegal (e : DecodeError)
deriving DecidableEq, Repr

/-- The opcode map of 30_encoding.md R67 on `w[3:0]`, given as a number. -/
def decodeOp : Nat → Decoded
  | 0x0 => .illegal .opZero
  | 0x1 => .ok .keygen
  | 0x2 => .ok .blockEnc
  | 0x3 => .ok .blockDec
  | 0x4 => .ok .pad
  | 0x5 => .ok .unpad
  | 0x6 => .ok .encrypt
  | 0x7 => .ok .decrypt
  | 0x8 => .ok .verify
  | _ => .illegal .opReserved

/-- The decoder of 30_encoding.md R66: first the must-be-zero field, then the opcode. -/
def decode (w : Word) : Decoded :=
  if w.extractLsb' 4 28 = 0#28 then decodeOp (w.extractLsb' 0 4).toNat else .illegal .mustBeZero

/-- The 4-bit opcode of a command (30_encoding.md R67), as it is latched in OP (10_state.md R39). -/
def opcode : Instr → BitVec 4
  | .keygen => 0x1#4
  | .blockEnc => 0x2#4
  | .blockDec => 0x3#4
  | .pad => 0x4#4
  | .unpad => 0x5#4
  | .encrypt => 0x6#4
  | .decrypt => 0x7#4
  | .verify => 0x8#4

/-- The command word of a command: OP in [3:0], [31:4] zero (30_encoding.md R65, R67). -/
def encode (i : Instr) : Word := 0#28 ++ opcode i

/-- The command a word stands for, if it is valid. -/
def Decoded.instr? : Decoded → Option Instr
  | .ok i => some i
  | .illegal _ => none

/-- The command word of an instruction laid out as spec/opcode_table.json numbers it: the low `nbits` bits of `w`, every
bit above them zero. A command is exactly one 32-bit word (30_encoding.md R70). -/
def tableWord (nbits w : Nat) : Option Word :=
  if w % 2 ^ nbits < 2 ^ 32 then some (BitVec.ofNat 32 (w % 2 ^ nbits)) else none

/-- The instruction the decoder reads from the `nbits` bits `w` of an opcode-table row. -/
def decodeTableWord (nbits w : Nat) : Option Instr :=
  (tableWord nbits w).bind fun v => (decode v).instr?

end Sys2Proof
end

