-- ==== Sys2Proof/Config.lean ====
section
/-!
DEFINITION. What an instance of the engine fixes and the spec leaves open (00_scope.md R5, R6, R7), and the free values.
Every constant here is opaque and has no body: nothing can be proved about its value but what its type says.
-/

namespace Sys2Proof

/-- The two engine buffers (20_memory.md R44). -/
inductive Buf where
  /-- the message buffer MBUF -/
  | mbuf
  /-- the verify buffer VBUF -/
  | vbuf
deriving DecidableEq, Repr, Inhabited

/-- The three source positions 5, 6, 7 of the twist (42_round_function.md R98). -/
inductive SrcPos where
  | five
  | six
  | seven
deriving DecidableEq, Repr, Inhabited

/-- The twist's open tables (00_scope.md R5): `ofs k` is TWIST_OFS[k], in the set 0, 1, 2; `pair s` is TWIST_PAIR[s], an
ordered pair of source positions. -/
structure TwistTables where
  ofs : Fin 16 → Fin 3
  pair : Fin 3 → SrcPos × SrcPos
deriving Inhabited

/-- The twist tables of the instance. OPEN in the spec (00_scope.md R5, 92 D14, D15): no value is chosen. Log 4. -/
opaque Config.twist : TwistTables

/-- How many 8-byte blocks the buffers hold beyond the least two (00_scope.md R6): 0 to 510. Log 3. -/
opaque Config.extraBlocks : Fin 511

/-- N_BUF, the bytes of each buffer (00_scope.md R6): a multiple of 8 from 16 to 4096, otherwise open. Log 3. -/
def Config.nBuf : Nat := 8 * Config.extraBlocks.val + 16

/-- Which 16 KiB window of the host's address space holds the block. Log 5. -/
opaque Config.baseIndex : Nat

/-- BASE, a multiple of 0x4000, otherwise open (00_scope.md R7). Log 5. -/
def Config.base : Nat := 0x4000 * Config.baseIndex

/-- FREE VALUE: the byte that address `addr` of buffer `b` holds after its reset number `epoch`, if nothing has written
it since (20_memory.md R51, 70_reset_and_hazards.md R151, R152: arbitrary). Log 6. -/
opaque Config.powerUp (b : Buf) (epoch addr : Nat) : Byte

/-- FREE VALUE: the word that the n-th read of an MBUF or SUBKEY word taken while BUSY = 1 returns (10_state.md R42:
arbitrary, independently drawn per read). Log 7. -/
opaque Config.busyRead (n : Nat) : Word

/-- FREE VALUE: the word that a host read at an offset outside the block returns, taken when `n` words have been drawn: it
comes from the platform and not from the engine. Log 21. -/
opaque Config.outsideRead (n : Nat) : Word

end Sys2Proof
end

