-- ==== Sys2Proof/Machine/Bits.lean ====
section
/-!
DEFINITION. The bit primitives and the permutation tables (40_bitvector.md). Two views of a bit string are used: a
`BitVec n`, string bit ⟨0⟩ being the most significant bit (00_scope.md R9), for the datapath; and a byte buffer, a list
of bytes read most significant bit first, byte 0 first (R8), for the buffer primitives R75 to R78.
-/

namespace Sys2Proof.Machine

/-- The string of `n` bits whose bit ⟨j⟩ is `f j`. -/
def bitsOf : (n : Nat) → (Nat → Bool) → BitVec n
  | 0, _ => 0#0
  | n + 1, f => (bitsOf n f).concat (f n)

/-- String bit ⟨i⟩ of a string held in a bit vector (00_scope.md R8, R9). -/
def strBit {n : Nat} (s : BitVec n) (i : Nat) : Bool := s.getMsbD i

/-- `s⟨a..a+len)`, re-indexed from 0 (00_scope.md R8). -/
def substr {n : Nat} (s : BitVec n) (a len : Nat) : BitVec len := bitsOf len fun j => strBit s (a + j)

/-- `perm(s, T)`: bit ⟨j⟩ of the result is bit ⟨T[j] - 1⟩ of `s`; the entries of T are 1-based (40_bitvector.md R80). -/
def perm {n : Nat} (m : Nat) (T : List Nat) (s : BitVec n) : BitVec m :=
  bitsOf m fun j => strBit s (T.getD j 0 - 1)

/-- `rotl(s, k)`: bit ⟨j⟩ of the result is bit ⟨(j + k) mod n⟩ of `s` (40_bitvector.md R79). -/
def rotl {n : Nat} (s : BitVec n) (k : Nat) : BitVec n := bitsOf n fun j => strBit s ((j + k) % n)

/-! ### The primitives on byte buffers -/

/-- The bits of a byte buffer, most significant bit first within each byte, byte 0 first (00_scope.md R8). -/
def bufBits (s : List Byte) : List Bool := s.flatMap fun b => (List.range 8).map fun j => strBit b j

/-- getBit (40_bitvector.md R75). An index outside the buffer has no result (log 20). -/
def getBit (s : List Byte) (i : Nat) : Option Bool := (s[i / 8]?).map fun b => strBit b (i % 8)

/-- A byte with string bit ⟨j⟩ set to `v`. -/
def byteSetBit (b : Byte) (j : Nat) (v : Bool) : Byte := bitsOf 8 fun k => if k = j then v else strBit b k

/-- setBit (40_bitvector.md R76): `v` is coerced to 0 or 1, no other bit changes. -/
def setBit (s : List Byte) (i v : Nat) : List Byte :=
  s.modify (i / 8) fun b => byteSetBit b (i % 8) (v != 0)

/-- The bytes that hold a string of bits from local bit 0 on, the rest of the final byte 0: how R77 and R78 repack.
`fuel` is at least the number of bytes. -/
def packBytes : (fuel : Nat) → List Bool → List Byte
  | _, [] => []
  | 0, _ => []
  | fuel + 1, b :: bs =>
    bitsOf 8 (fun j => (b :: bs).getD j false) :: packBytes fuel ((b :: bs).drop 8)

/-- getBits (40_bitvector.md R77): `s⟨start..start+length)` repacked from bit 0 into ceil(length/8) bytes. Bits outside
the buffer have no result (log 20). -/
def getBits (s : List Byte) (start length : Nat) : Option (List Byte) :=
  if start + length ≤ 8 * s.length then some (packBytes length (((bufBits s).drop start).take length)) else none

/-- concatenateBits (40_bitvector.md R78): `a⟨0..aLen) ‖ b⟨0..bLen)` repacked contiguously. -/
def concatenateBits (a : List Byte) (aLen : Nat) (b : List Byte) (bLen : Nat) : Option (List Byte) :=
  if aLen ≤ 8 * a.length ∧ bLen ≤ 8 * b.length then
    some (packBytes (aLen + bLen) ((bufBits a).take aLen ++ (bufBits b).take bLen))
  else none

/-- leftRotation (40_bitvector.md R79) of the first `n` bits of a buffer by `k`. -/
def leftRotation (s : List Byte) (n k : Nat) : Option (List Byte) :=
  if 1 ≤ n ∧ n ≤ 8 * s.length then
    some (packBytes n (((bufBits s).take n).rotateLeft (k % n)))
  else none

/-- permutation (40_bitvector.md R80) of a buffer by a table of 1-based positions. -/
def permutation (s : List Byte) (T : List Nat) : Option (List Byte) :=
  if T.all (fun t => 1 ≤ t && t ≤ 8 * s.length) then
    some (packBytes T.length (T.map fun t => (bufBits s).getD (t - 1) false))
  else none

/-- xor of two buffers (40_bitvector.md R81): a length mismatch has no result (log 20). -/
def xorBytes (a b : List Byte) : Option (List Byte) :=
  if a.length = b.length then some (List.zipWith (· ^^^ ·) a b) else none

/-! ### The fixed tables (40_bitvector.md R83 to R88) -/

/-- IP, the initial permutation, 64 → 64 (40_bitvector.md R83). -/
def tableIP : List Nat :=
  [58, 50, 42, 34, 26, 18, 10, 2] ++
  [60, 52, 44, 36, 28, 20, 12, 4] ++
  [62, 54, 46, 38, 30, 22, 14, 6] ++
  [64, 56, 48, 40, 32, 24, 16, 8] ++
  [57, 49, 41, 33, 25, 17, 9, 1] ++
  [59, 51, 43, 35, 27, 19, 11, 3] ++
  [61, 53, 45, 37, 29, 21, 13, 5] ++
  [63, 55, 47, 39, 31, 23, 15, 7]

/-- IP⁻¹, the inverse initial permutation, 64 → 64 (40_bitvector.md R84). -/
def tableIPInv : List Nat :=
  [40, 8, 48, 16, 56, 24, 64, 32] ++
  [39, 7, 47, 15, 55, 23, 63, 31] ++
  [38, 6, 46, 14, 54, 22, 62, 30] ++
  [37, 5, 45, 13, 53, 21, 61, 29] ++
  [36, 4, 44, 12, 52, 20, 60, 28] ++
  [35, 3, 43, 11, 51, 19, 59, 27] ++
  [34, 2, 42, 10, 50, 18, 58, 26] ++
  [33, 1, 41, 9, 49, 17, 57, 25]

/-- E, the expansion, 32 → 48 (40_bitvector.md R85). -/
def tableE : List Nat :=
  [32, 1, 2, 3, 4, 5] ++
  [4, 5, 6, 7, 8, 9] ++
  [8, 9, 10, 11, 12, 13] ++
  [12, 13, 14, 15, 16, 17] ++
  [16, 17, 18, 19, 20, 21] ++
  [20, 21, 22, 23, 24, 25] ++
  [24, 25, 26, 27, 28, 29] ++
  [28, 29, 30, 31, 32, 1]

/-- P, the round permutation, 32 → 32 (40_bitvector.md R86). -/
def tableP : List Nat :=
  [16, 7, 20, 21, 29, 12, 28, 17] ++
  [1, 15, 23, 26, 5, 18, 31, 10] ++
  [2, 8, 24, 14, 32, 27, 3, 9] ++
  [19, 13, 30, 6, 22, 11, 4, 25]

/-- PC-1, the first key-compression table, 64 → 56 (40_bitvector.md R87). -/
def tablePC1 : List Nat :=
  [57, 49, 41, 33, 25, 17, 9] ++
  [1, 58, 50, 42, 34, 26, 18] ++
  [10, 2, 59, 51, 43, 35, 27] ++
  [19, 11, 3, 60, 52, 44, 36] ++
  [63, 55, 47, 39, 31, 23, 15] ++
  [7, 62, 54, 46, 38, 30, 22] ++
  [14, 6, 61, 53, 45, 37, 29] ++
  [21, 13, 5, 28, 20, 12, 4]

/-- PC-2, the second key-compression table, 56 → 48 (40_bitvector.md R88). -/
def tablePC2 : List Nat :=
  [14, 17, 11, 24, 1, 5] ++
  [3, 28, 15, 6, 21, 10] ++
  [23, 19, 12, 4, 26, 8] ++
  [16, 7, 27, 20, 13, 2] ++
  [41, 52, 31, 37, 47, 55] ++
  [30, 40, 51, 45, 33, 48] ++
  [44, 49, 39, 56, 34, 53] ++
  [46, 42, 50, 36, 29, 32]

/-- The bit-permutation unit (40_bitvector.md R89): the initial permutation of a block. -/
def permIP (s : Block) : Block := perm 64 tableIP s

/-- The bit-permutation unit: the inverse initial permutation of a block. -/
def permIPInv (s : Block) : Block := perm 64 tableIPInv s

/-- The bit-permutation unit: the expansion of a half-block. -/
def permE (s : Word) : BitVec 48 := perm 48 tableE s

/-- The bit-permutation unit: the round permutation of a half-block. -/
def permP (s : Word) : Word := perm 32 tableP s

/-- The bit-permutation unit: the first key compression. -/
def permPC1 (s : BitVec 64) : BitVec 56 := perm 56 tablePC1 s

/-- The bit-permutation unit: the second key compression. -/
def permPC2 (s : BitVec 56) : Subkey := perm 48 tablePC2 s

end Sys2Proof.Machine
end

