-- ==== Sys2Proof/Machine/Cipher.lean ====
section
/-!
DEFINITION. The cipher's combinational units and functions: key schedule (41_key_schedule.md), twist and round function
(42_round_function.md), block transform (43_block_cipher.md). The twist's open tables are an argument (00_scope.md R5).
-/

namespace Sys2Proof.Machine

/-! ### Key schedule -/

/-- SHIFT[r], the rotation schedule (41_key_schedule.md R90). -/
def shiftAmount (r : Nat) : Nat := [1, 1, 2, 2, 2, 2, 2, 2, 1, 2, 2, 2, 2, 2, 2, 1].getD r 0

/-- C and D before round 0: the halves of `perm(K, PC-1)` (41_key_schedule.md R91). -/
def keyHalves (K : BitVec 64) : BitVec 28 × BitVec 28 :=
  (substr (permPC1 K) 0 28, substr (permPC1 K) 28 28)

/-- One rotation of round r: C and D rotate independently by SHIFT[r] (41_key_schedule.md R91). -/
def rotateHalves (r : Nat) (cd : BitVec 28 × BitVec 28) : BitVec 28 × BitVec 28 :=
  (rotl cd.1 (shiftAmount r), rotl cd.2 (shiftAmount r))

/-- C and D after the rotations of rounds 0 to n - 1, which are cumulative (41_key_schedule.md R91). -/
def halvesAfter (K : BitVec 64) : Nat → BitVec 28 × BitVec 28
  | 0 => keyHalves K
  | n + 1 => rotateHalves n (halvesAfter K n)

/-- The subkey of a pair of halves: `perm(C ‖ D, PC-2)` (41_key_schedule.md R91). -/
def subkeyOf (cd : BitVec 28 × BitVec 28) : Subkey := permPC2 (cd.1 ++ cd.2)

/-- KS[r], the subkey of round r of master key K (41_key_schedule.md R91). -/
def subkey (K : BitVec 64) (r : Nat) : Subkey := subkeyOf (halvesAfter K (r + 1))

/-- The key schedule function: KS[0..15] of a master key (41_key_schedule.md R91). -/
def keySchedule (K : BitVec 64) : Vector Subkey 16 := Vector.ofFn fun r : Fin 16 => subkey K r.val

/-! ### Twist and round function -/

/-- The bit position a source position names, 0-based in the 48-bit twist input (42_round_function.md R98). -/
def srcIndex : SrcPos → Nat
  | .five => 5
  | .six => 6
  | .seven => 7

/-- g_k, the value of 3-bit group k of the twist input (42_round_function.md R96). -/
def twistGroup (x : BitVec 48) (k : Nat) : Nat :=
  4 * (strBit x (3 * k)).toNat + 2 * (strBit x (3 * k + 1)).toNat + (strBit x (3 * k + 2)).toNat

/-- s_k, the selector of group k (42_round_function.md R97). -/
def twistSel (tw : TwistTables) (x : BitVec 48) (k : Fin 16) : Fin 3 :=
  Fin.ofNat 3 (twistGroup x k.val + (tw.ofs k).val)

/-- The pair of source positions of group k (42_round_function.md R99). -/
def twistPair (tw : TwistTables) (x : BitVec 48) (k : Fin 16) : SrcPos × SrcPos := tw.pair (twistSel tw x k)

/-- The twist (42_round_function.md R100): group k writes output bits ⟨2k⟩ and ⟨2k+1⟩ in pair order (R99). -/
def twist (tw : TwistTables) (x : BitVec 48) : Word :=
  bitsOf 32 fun j =>
    let p := twistPair tw x (Fin.ofNat 16 (j / 2))
    strBit x (srcIndex (if j % 2 = 0 then p.1 else p.2))

/-- The round function F (42_round_function.md R102). -/
def roundF (tw : TwistTables) (R : Word) (K : Subkey) : Word := permP (twist tw (permE R ^^^ K))

/-! ### Block transform -/

/-- The two directions of the block transform (00_scope.md R12). -/
inductive Dir where
  | enc
  | dec
deriving DecidableEq, Repr, Inhabited

/-- The subkey round r uses: KS[r] for ENC, KS[15 - r] for DEC (00_scope.md R12). -/
def roundKey (ks : Vector Subkey 16) (dir : Dir) (r : BitVec 4) : Subkey :=
  match dir with
  | .enc => ks[r.toFin]
  | .dec => ks[(15#4 - r).toFin]

/-- One round: `(L, R) <- (R, L ⊕ F(R, k))` (43_block_cipher.md R105 step 3, R108). -/
def feistelRound (tw : TwistTables) (k : Subkey) (lr : Word × Word) : Word × Word :=
  (lr.2, lr.1 ^^^ roundF tw lr.2 k)

/-- L and R after the rounds 0 to n - 1 (43_block_cipher.md R105 step 3). -/
def feistelRounds (tw : TwistTables) (ks : Vector Subkey 16) (dir : Dir) : Nat → Word × Word → Word × Word
  | 0, lr => lr
  | n + 1, lr => feistelRound tw (roundKey ks dir (BitVec.ofNat 4 n)) (feistelRounds tw ks dir n lr)

/-- Steps 1 and 2 of the transform: L first, R last (43_block_cipher.md R105). -/
def splitBlock (b : Block) : Word × Word := (substr (permIP b) 0 32, substr (permIP b) 32 32)

/-- Step 4 of the transform: R first, no final swap (43_block_cipher.md R105, R106). -/
def joinBlock (lr : Word × Word) : Block := permIPInv (lr.2 ++ lr.1)

/-- The block transform (43_block_cipher.md R105): exactly 16 rounds in both directions (R107). -/
def transform (tw : TwistTables) (ks : Vector Subkey 16) (dir : Dir) (b : Block) : Block :=
  joinBlock (feistelRounds tw ks dir 16 (splitBlock b))

end Sys2Proof.Machine
end

