-- ==== Sys2Proof/Machine/State.lean ====
section
/-!
DEFINITION. The state of the engine and of what stands at its bus (10_state.md, 20_memory.md), its reset value (10_state.md
R41, 70_reset_and_hazards.md R151), and the reasons a step can stop.
-/

namespace Sys2Proof.Machine

/-- The phases of the sequencer (10_state.md R31); the values 9 to 15 never occur. -/
inductive Phase where
  | idle
  | keygen
  | pad
  | load
  | round
  | store
  | unpad
  | compare
  | finish
deriving DecidableEq, Repr, Inhabited

/-- The sequencer's control state `seq = (PHASE, BLOCK, ROUND)` (10_state.md R31). -/
structure Seq where
  phase : Phase
  block : BitVec 16
  round : BitVec 4
deriving DecidableEq, Repr, Inhabited

/-- The error codes (60_exceptions.md R131); the values 7 to 15 are never produced. -/
inductive ErrCode where
  /-- 0x0: no error -/
  | none
  /-- 0x1: a key word was never written -/
  | invalidKeyLength
  /-- 0x2: LEN = 0 or LEN mod 8 != 0 -/
  | invalidCiphertextLength
  /-- 0x3: named by the source, never raised (60_exceptions.md R150) -/
  | emptyInput
  /-- 0x4: the CMD word is illegal -/
  | badCommand
  /-- 0x5: LEN or VLEN exceeds the buffer -/
  | lengthOverflow
  /-- 0x6: unpad found no byte to drop as the marker -/
  | padUnderflow
deriving DecidableEq, Repr, Inhabited

/-- MODE (10_state.md R39): single block without chaining, CBC encryption, CBC decryption. -/
inductive Mode where
  | ecb1
  | cbce
  | cbcd
deriving DecidableEq, Repr, Inhabited

/-- The contents of one buffer (20_memory.md R48): the bytes that differ from what the buffer held after its reset number
`epoch`, at strictly rising addresses. What an unlisted address reads as is `Memory.unlisted`. -/
structure Memory where
  buf : Buf
  epoch : Nat
  cells : List Host.Cell
deriving DecidableEq, Repr

/-- What an address reads as that nothing has written since the last reset: an arbitrary byte, a free value
(20_memory.md R51). Log 6. -/
def Memory.unlisted (m : Memory) (a : Nat) : Byte := Config.powerUp m.buf m.epoch a

/-- The state. One field for each piece of state of 10_state.md and 20_memory.md; the last four are the model's own. -/
structure State where
  /-- CTRL.IE (10_state.md R16) -/
  ie : Bool
  /-- STATUS.BUSY (R19) -/
  busy : Bool
  /-- STATUS.DONE (R20) -/
  done : Bool
  /-- STATUS.VERIFY_OK (R22) -/
  verifyOk : Bool
  /-- STATUS.KEYS_VALID, the flag KSV (R23) -/
  ksv : Bool
  /-- STATUS.WDROP (R24) -/
  wdrop : Bool
  /-- STATUS.KEY0_SET (R25) -/
  key0Set : Bool
  /-- STATUS.KEY1_SET (R25) -/
  key1Set : Bool
  /-- ERRCODE (R26) -/
  errcode : ErrCode
  /-- LEN (R27) -/
  len : Word
  /-- OUTLEN (R28) -/
  outlen : Word
  /-- VLEN (R29) -/
  vlen : Word
  /-- KEYREG (R34) -/
  keyreg : BitVec 64
  /-- the sequencer (R31) -/
  seq : Seq
  /-- C, the first key-schedule half (R35) -/
  c : BitVec 28
  /-- D, the second key-schedule half (R35) -/
  d : BitVec 28
  /-- KS[0..15], the round subkey table (R36) -/
  ks : Vector Subkey 16
  /-- L, the first Feistel half (R37) -/
  l : Word
  /-- R, the second Feistel half (R37) -/
  r : Word
  /-- IV, the chaining value (R38) -/
  iv : Block
  /-- CSAVE, the current ciphertext block (R38) -/
  csave : Block
  /-- OP, the opcode of the current command (R39) -/
  op : BitVec 4
  /-- NLEN, the value of LEN at acceptance (R39) -/
  nlen : Word
  /-- NVLEN, the value of VLEN at acceptance (R39) -/
  nvlen : Word
  /-- DIRN, the direction (R39) -/
  dirn : Dir
  /-- MODE (R39) -/
  mode : Mode
  /-- NBLK, the number of blocks to transform (R39) -/
  nblk : BitVec 16
  /-- NPLEN, the padded length (R39) -/
  nplen : Word
  /-- RLEN, the result length (R39) -/
  rlen : Word
  /-- VOK, the comparison result (R39) -/
  vok : Bool
  /-- EPEND, the pending execution-time error (R39) -/
  epend : ErrCode
  /-- MBUF (20_memory.md R48) -/
  mbuf : Memory
  /-- VBUF (20_memory.md R48) -/
  vbuf : Memory
  /-- the model's own: how many arbitrary words reads have drawn, while BUSY (10_state.md R42) or outside the block.
  DESIGN CHOICE, safe, log 7, log 21. -/
  draws : Nat
  /-- the model's own: the host's transactions still to come, oldest first (30_encoding.md R71). DESIGN CHOICE, log 2. -/
  prog : List HostOp
  /-- the model's own: whose turn the next steps are, oldest first (20_memory.md R60). DESIGN CHOICE, log 2. -/
  sched : List Turn
  /-- the model's own: the data words that reads have returned to the host, newest first. DESIGN CHOICE, safe, log 12. -/
  replies : List Word
deriving DecidableEq, Repr

/-- Why a step stops with a fault. No state a run from reset reaches raises one (60_exceptions.md R132, R134). -/
inductive Fault where
  /-- raised by the LOAD, STORE, PAD, UNPAD and COMPARE steps when they would touch a buffer byte at or above N_BUF, which
  does not exist (20_memory.md R52, R53); safe: the machine stops. DESIGN CHOICE, log 10. -/
  | bufferRange
  /-- raised by the last KEYGEN step when OP is a command without a KEYGEN phase, so that 10_state.md R31 gives no next
  phase; safe: the machine stops. DESIGN CHOICE, log 11. -/
  | noNextPhase
deriving DecidableEq, Repr

/-- Why a step is refused. -/
inductive Refusal where
  /-- raised by `exec` for a command without a meaning; safe. No command is without one. -/
  | notModelled (mnemonic : String)
  /-- raised by a host access of 8 or 16 bits, which the spec says a model refuses (20_memory.md R55); safe. DESIGN CHOICE, log 9. -/
  | subWordAccess
  /-- raised by a host access at an offset that is no multiple of 4, which the spec says a model refuses (20_memory.md
  R55); safe. DESIGN CHOICE, log 9. -/
  | unalignedAccess
deriving DecidableEq, Repr

/-- The machine right after reset (10_state.md R41, 70_reset_and_hazards.md R151). The registers without a reset value
hold zero, ENC or ECB1 (DESIGN CHOICE, UNSAFE, log 8); the buffers hold free values (log 6); the host has nothing to do yet (log 15). -/
def State.reset : State where
  ie := false
  busy := false
  done := false
  verifyOk := false
  ksv := false
  wdrop := false
  key0Set := false
  key1Set := false
  errcode := .none
  len := 0#32
  outlen := 0#32
  vlen := 0#32
  keyreg := 0#64
  seq := { phase := .idle, block := 0#16, round := 0#4 }
  c := 0#28
  d := 0#28
  ks := Vector.replicate 16 0#48
  l := 0#32
  r := 0#32
  iv := 0#64
  csave := 0#64
  op := 0#4
  nlen := 0#32
  nvlen := 0#32
  dirn := .enc
  mode := .ecb1
  nblk := 0#16
  nplen := 0#32
  rlen := 0#32
  vok := false
  epend := .none
  mbuf := { buf := .mbuf, epoch := 0, cells := [] }
  vbuf := { buf := .vbuf, epoch := 0, cells := [] }
  draws := 0
  prog := []
  sched := []
  replies := []

end Sys2Proof.Machine
end

