-- ==== Sys2Proof/Machine/Flags.lean ====
section
/-!
DEFINITION. The status bits, the register words a host reads, and the interrupt output (10_state.md R15 to R32,
60_exceptions.md R131, R140). The engine has no arithmetic flags (10_state.md R40).
-/

namespace Sys2Proof.Machine

/-- The 4-bit number of an error code (60_exceptions.md R131). -/
def ErrCode.bits : ErrCode → BitVec 4
  | .none => 0x0#4
  | .invalidKeyLength => 0x1#4
  | .invalidCiphertextLength => 0x2#4
  | .emptyInput => 0x3#4
  | .badCommand => 0x4#4
  | .lengthOverflow => 0x5#4
  | .padUnderflow => 0x6#4

/-- The 4-bit number of a phase (10_state.md R31). -/
def Phase.bits : Phase → BitVec 4
  | .idle => 0#4
  | .keygen => 1#4
  | .pad => 2#4
  | .load => 3#4
  | .round => 4#4
  | .store => 5#4
  | .unpad => 6#4
  | .compare => 7#4
  | .finish => 8#4

/-- STATUS.ERR: always ERRCODE != 0 (10_state.md R21). -/
def State.err (s : State) : Bool := s.errcode.bits != 0#4

/-- The interrupt output: IRQ = DONE and CTRL.IE (60_exceptions.md R140). -/
def State.irq (s : State) : Bool := s.done && s.ie

/-- The word CAPS reads as (10_state.md R15). -/
def capsWord : Word := BitVec.ofNat 32 Config.nBuf

/-- The word CTRL reads as (10_state.md R16). -/
def State.ctrlWord (s : State) : Word := 0#31 ++ BitVec.ofBool s.ie

/-- The word STATUS reads as (10_state.md R18). -/
def State.statusWord (s : State) : Word :=
  0#24 ++ BitVec.ofBool s.key1Set ++ BitVec.ofBool s.key0Set ++ BitVec.ofBool s.wdrop ++ BitVec.ofBool s.ksv ++
    BitVec.ofBool s.verifyOk ++ BitVec.ofBool s.err ++ BitVec.ofBool s.done ++ BitVec.ofBool s.busy

/-- The word ERRCODE reads as (10_state.md R26). -/
def State.errcodeWord (s : State) : Word := 0#28 ++ s.errcode.bits

/-- The word PROGRESS reads as (10_state.md R32). -/
def State.progressWord (s : State) : Word := s.seq.block ++ 0#8 ++ s.seq.phase.bits ++ s.seq.round

/-- The two words of subkey r in the SUBKEY window, `first` the one at 0x100 + 8r (10_state.md R33): zero while KSV = 0. -/
def State.subkeyWord (s : State) (r : BitVec 4) (first : Bool) : Word :=
  if s.ksv then
    if first then substr s.ks[r.toFin] 0 32 else substr s.ks[r.toFin] 32 16 ++ 0#16
  else 0#32

/-- A write of CTRL: `IE <- wdata[0]` (10_state.md R16). -/
def State.writeCtrl (s : State) (v : Word) : State := { s with ie := v.getLsbD 0 }

/-- A write of STATUS: bit 1 clears DONE, bit 5 clears WDROP, every other bit is ignored (10_state.md R18). -/
def State.writeStatus (s : State) (v : Word) : State :=
  { s with done := s.done && !v.getLsbD 1, wdrop := s.wdrop && !v.getLsbD 5 }

/-- A host write that arrives while BUSY = 1 and is dropped: it changes nothing but WDROP (10_state.md R24, R43). -/
def State.dropWrite (s : State) : State := { s with wdrop := true }

end Sys2Proof.Machine
end

