-- ==== Sys2Proof/Machine/Ops.lean ====
section
/-!
DEFINITION. The named operations: buffer bytes and byte ranges (20_memory.md R50, R52, R53), and how a command ends in an
error or completes. The engine has no traps (60_exceptions.md R132); the counterpart of taking an exception is
`State.reject` at acceptance (R133) and `State.raise` during execution (R136), the counterpart of returning is
`State.finish` (44_cbc_padding.md R124, 60_exceptions.md R138).
-/

namespace Sys2Proof.Machine

/-! ### Buffers -/

/-- The listed byte at an address, if there is one. -/
def lookupCell : List Host.Cell → Nat → Option Byte
  | [], _ => none
  | (a, b) :: rest, x => if a = x then some b else lookupCell rest x

/-- List a byte at its place, taking the place of the one listed at that address. -/
def insertCell : List Host.Cell → Nat → Byte → List Host.Cell
  | [], x, v => [(x, v)]
  | (a, b) :: rest, x, v =>
    if x < a then (x, v) :: (a, b) :: rest
    else if x = a then (x, v) :: rest
    else (a, b) :: insertCell rest x v

/-- Take an address out of the list. -/
def eraseCell (cells : List Host.Cell) (x : Nat) : List Host.Cell := cells.filter fun p => p.1 != x

/-- The canonical form: addresses strictly rising, and no entry equal to what an unlisted address reads as. -/
def Memory.wf (m : Memory) : Bool :=
  decide (m.cells.Pairwise fun p q => p.1 < q.1) && m.cells.all fun p => p.2 != m.unlisted p.1

/-- Only addresses below N_BUF are listed (20_memory.md R48). -/
def Memory.inRange (m : Memory) : Bool := m.cells.all fun p => decide (p.1 < Config.nBuf)

/-- The byte at an address. -/
def Memory.read (m : Memory) (a : Nat) : Byte := (lookupCell m.cells a).getD (m.unlisted a)

/-- The buffer after a byte is stored at an address; the canonical form is kept. -/
def Memory.write (m : Memory) (a : Nat) (v : Byte) : Memory :=
  { m with cells := if v = m.unlisted a then eraseCell m.cells a else insertCell m.cells a v }

/-- `MemRead(B, off, n)`: the 8n-bit string of bytes off to off+n-1 (20_memory.md R52). -/
def Memory.readBytes (m : Memory) (off : Nat) : (n : Nat) → BitVec (8 * n)
  | 0 => 0#0
  | n + 1 => m.readBytes off n ++ m.read (off + n)

/-- `MemWrite(B, off, n, v)`: byte off+j becomes `v⟨8j..8j+8)` (20_memory.md R53). -/
def Memory.writeBytes (m : Memory) (off : Nat) : (n : Nat) → BitVec (8 * n) → Memory
  | 0, _ => m
  | n + 1, v => (m.writeBytes off n (v.extractLsb' 8 (8 * n))).write (off + n) (v.extractLsb' 0 8)

/-- Store a list of bytes from an address on. -/
def Memory.writeList (m : Memory) (off : Nat) : List Byte → Memory
  | [] => m
  | b :: bs => (m.write off b).writeList (off + 1) bs

/-- The bytes off to off+n-1 as a byte string. -/
def Memory.bytes (m : Memory) (off n : Nat) : List Byte := (List.range n).map fun j => m.read (off + j)

/-- Block i of a buffer: bytes 8i to 8i + 7 (20_memory.md R48). -/
def Memory.readBlock (m : Memory) (i : Nat) : Block := m.readBytes (8 * i) 8

/-- A buffer with block i stored. -/
def Memory.writeBlock (m : Memory) (i : Nat) (v : Block) : Memory := m.writeBytes (8 * i) 8 v

/-- The largest z <= n with bytes n-z to n-1 all 0x00 (44_cbc_padding.md R114, R122). -/
def Memory.trailingZeros (m : Memory) : Nat → Nat
  | 0 => 0
  | n + 1 => if m.read n = 0x00#8 then m.trailingZeros n + 1 else 0

/-- The buffer after a reset event: arbitrary fresh contents (20_memory.md R51, 70_reset_and_hazards.md R152). -/
def Memory.afterReset (m : Memory) : Memory := { m with epoch := m.epoch + 1, cells := [] }

/-! ### The sequencer -/

/-- `seq <- (phase, block, round)` (00_scope.md R11). -/
def State.goto (s : State) (phase : Phase) (block : BitVec 16) (round : BitVec 4) : State :=
  { s with seq := { phase := phase, block := block, round := round } }

/-! ### Acceptance, rejection, completion -/

/-- What every CMD write taken while BUSY = 0 does first (60_exceptions.md R133). -/
def State.clearResults (s : State) : State :=
  { s with done := false, verifyOk := false, errcode := .none, outlen := 0#32, epend := .none }

/-- `reject(code)`: the command ends in its acceptance step (60_exceptions.md R133). -/
def State.reject (s : State) (e : ErrCode) : State :=
  { s with errcode := e, done := true, seq := { phase := .idle, block := 0#16, round := 0#4 } }

/-- An execution-time error: it is pending until FINISH, where the sequencer goes at once (60_exceptions.md R136,
44_cbc_padding.md R122). -/
def State.raise (s : State) (e : ErrCode) : State :=
  { s with epend := e, rlen := 0#32, seq := { phase := .finish, block := s.seq.block, round := 0#4 } }

/-- The FINISH step ends every accepted command (44_cbc_padding.md R124). -/
def State.finish (s : State) : State :=
  { s with
    errcode := s.epend
    outlen := if s.epend = .none then s.rlen else 0#32
    verifyOk := s.op == opcode .verify && s.epend == .none && s.vok
    busy := false
    done := true
    seq := { phase := .idle, block := s.nblk, round := 0#4 } }

/-- The reset event (70_reset_and_hazards.md R151, R152): all of the engine's state takes its reset value, whatever was
running; the buffers hold fresh arbitrary bytes; the host's side of the bus and the count of draws go on. DESIGN CHOICE, safe, log 19. -/
def State.resetEvent (s : State) : State :=
  { State.reset with
    mbuf := s.mbuf.afterReset
    vbuf := s.vbuf.afterReset
    draws := s.draws
    prog := s.prog
    sched := s.sched
    replies := s.replies }

end Sys2Proof.Machine
end

