-- ==== Sys2Proof/Machine/Operands.lean ====
section
/-!
DEFINITION. The operands of a command (30_encoding.md R68): the checks on them at acceptance (60_exceptions.md R133 to
R135) and how they are latched (R133). The places of the register block a host addresses (10_state.md R14).
-/

namespace Sys2Proof.Machine

/-! ### The register block -/

/-- What an offset of the register block names (10_state.md R14). -/
inductive Place where
  | caps
  | ctrl
  | cmd
  | status
  | errcode
  | len
  | outlen
  | vlen
  | key0
  | key1
  | progress
  /-- a SUBKEY word: of subkey `r`, the first one or the second -/
  | subkey (r : BitVec 4) (first : Bool)
  /-- an MBUF word, at its first byte's index -/
  | mbuf (byte : Nat)
  /-- a VBUF word, at its first byte's index -/
  | vbuf (byte : Nat)
  | reserved
  /-- an offset from 0x4000 on, which is not in the block (log 21) -/
  | outside
deriving DecidableEq, Repr

/-- The register map below 0x100 (10_state.md R14). -/
def registerPlace : Nat → Place
  | 0x000 => .caps
  | 0x004 => .ctrl
  | 0x008 => .cmd
  | 0x00C => .status
  | 0x010 => .errcode
  | 0x014 => .len
  | 0x018 => .outlen
  | 0x01C => .vlen
  | 0x020 => .key0
  | 0x024 => .key1
  | 0x028 => .progress
  | _ => .reserved

/-- What the word at byte offset `off` of the block names (10_state.md R14, R33, 20_memory.md R49). Window offsets at or
above N_BUF are reserved. -/
def placeOf (off : Nat) : Place :=
  if off < 0x100 then registerPlace off
  else if off < 0x180 then .subkey (BitVec.ofNat 4 ((off - 0x100) / 8)) ((off - 0x100) % 8 < 4)
  else if off < 0x1000 then .reserved
  else if off < 0x2000 then if off - 0x1000 < Config.nBuf then .mbuf (off - 0x1000) else .reserved
  else if off < 0x3000 then if off - 0x2000 < Config.nBuf then .vbuf (off - 0x2000) else .reserved
  else if off < 0x4000 then .reserved
  else .outside

/-! ### The checks at acceptance -/

/-- One check: whether it fails, and the code it is then rejected with. -/
abbrev Check := Bool × ErrCode

/-- The first check that fails decides (60_exceptions.md R135). -/
def firstError : List Check → Option ErrCode
  | [] => none
  | (fails, e) :: rest => if fails then some e else firstError rest

/-- KEY0_SET = 0 or KEY1_SET = 0: INVALID_KEY_LENGTH (60_exceptions.md R133). -/
def State.keyCheck (s : State) : Check := (!(s.key0Set && s.key1Set), .invalidKeyLength)

/-- LEN > N_BUF - 1: LENGTH_OVERFLOW (60_exceptions.md R134; N_BUF is at least 16). -/
def State.lenBelowCheck (s : State) : Check := (decide (Config.nBuf ≤ s.len.toNat), .lengthOverflow)

/-- LEN > N_BUF: LENGTH_OVERFLOW (60_exceptions.md R134). -/
def State.lenCheck (s : State) : Check := (decide (Config.nBuf < s.len.toNat), .lengthOverflow)

/-- VLEN > N_BUF: LENGTH_OVERFLOW (60_exceptions.md R134). -/
def State.vlenCheck (s : State) : Check := (decide (Config.nBuf < s.vlen.toNat), .lengthOverflow)

/-- LEN = 0 or LEN mod 8 != 0: INVALID_CIPHERTEXT_LENGTH (60_exceptions.md R134). -/
def State.blocksCheck (s : State) : Check :=
  (s.len.toNat == 0 || s.len.toNat % 8 != 0, .invalidCiphertextLength)

/-! ### Latching -/

/-- What an accepted command latches beside OP, NLEN and NVLEN (60_exceptions.md R133). -/
structure Latch where
  dirn : Dir
  mode : Mode
  nblk : BitVec 16
  rlen : Word
  first : Phase

/-- The operands are latched and the command starts (60_exceptions.md R133, from `OP <- op` on). -/
def State.start (s : State) (i : Instr) (k : Latch) : State :=
  { s with
    op := opcode i
    nlen := s.len
    nvlen := s.vlen
    dirn := k.dirn
    mode := k.mode
    nblk := k.nblk
    rlen := k.rlen
    vok := false
    busy := true
    seq := { phase := k.first, block := 0#16, round := 0#4 } }

/-- A CMD write of a command: dropped while BUSY = 1 (10_state.md R43); else the acceptance step (60_exceptions.md R133):
the previous results are cleared, and the command is rejected by the first check that fails, or started. -/
def State.submit (s : State) (i : Instr) (checks : List Check) (k : Latch) : State :=
  if s.busy then s.dropWrite
  else
    match firstError checks with
    | some e => s.clearResults.reject e
    | none => s.clearResults.start i k

/-- A CMD write of an illegal word (30_encoding.md R66, R69; 60_exceptions.md R133). -/
def State.submitIllegal (s : State) : State :=
  if s.busy then s.dropWrite else s.clearResults.reject .badCommand

end Sys2Proof.Machine
end

