-- ==== Sys2Proof/Machine/Padding.lean ====
section
/-!
DEFINITION. The padding and CBC functions of 44_cbc_padding.md sections 1 and 2, on byte strings: what the micro-steps of
the message commands are held against.
-/

namespace Sys2Proof.Machine

/-- `padlen(n) = 8 - (n mod 8)` (44_cbc_padding.md R112). -/
def padlen (n : Nat) : Nat := 8 - n % 8

/-- The padding marker byte (00_scope.md R4). -/
def padMarker : Byte := 0x80#8

/-- The bytes pad appends: the marker, then zeros (44_cbc_padding.md R113). -/
def padTail (n : Nat) : List Byte := padMarker :: List.replicate (padlen n - 1) 0x00#8

/-- `pad(m)` (44_cbc_padding.md R113). -/
def padBytes (m : List Byte) : List Byte := m ++ padTail m.length

/-- unpad on the reversed string: drop the zeros, then the assumed marker; `none` when no byte is left to drop
(44_cbc_padding.md R114). -/
def dropPadding : List Byte → Option (List Byte)
  | [] => none
  | b :: bs => if b = 0x00#8 then dropPadding bs else some bs

/-- `unpad(b)`; `none` is the error PAD_UNDERFLOW (44_cbc_padding.md R114). The dropped marker is not checked (R115). -/
def unpadBytes (b : List Byte) : Option (List Byte) := (dropPadding b.reverse).map List.reverse

/-- The fixed IV, every byte 0x55 (00_scope.md R4). -/
def fixedIV : Block := 0x5555555555555555#64

/-- The blocks of a byte string of whole blocks, byte 0 in the most significant bits (20_memory.md R48, R52). -/
def toBlocks : List Byte → List Block
  | b0 :: b1 :: b2 :: b3 :: b4 :: b5 :: b6 :: b7 :: rest =>
    (b0 ++ b1 ++ b2 ++ b3 ++ b4 ++ b5 ++ b6 ++ b7) :: toBlocks rest
  | _ => []

/-- The eight bytes of a block, byte 0 first (00_scope.md R8). -/
def blockBytes (b : Block) : List Byte := (List.range 8).map fun j => substr b (8 * j) 8

/-- The byte string of a list of blocks. -/
def ofBlocks (bs : List Block) : List Byte := bs.flatMap blockBytes

/-- The chained encryption of blocks from chaining value `iv` (44_cbc_padding.md R117). It is what R130 (e) speaks of: a
change of one plaintext block goes through `iv` into every later ciphertext block. -/
def cbcEncBlocks (tw : TwistTables) (ks : Vector Subkey 16) : Block → List Block → List Block
  | _, [] => []
  | iv, p :: ps =>
    transform tw ks .enc (p ^^^ iv) :: cbcEncBlocks tw ks (transform tw ks .enc (p ^^^ iv)) ps

/-- The chained decryption of blocks from chaining value `iv`: the next one is the input block (44_cbc_padding.md R118). It is
what R130 (d) speaks of: a ciphertext block enters its own decrypted block and the next one only. -/
def cbcDecBlocks (tw : TwistTables) (ks : Vector Subkey 16) : Block → List Block → List Block
  | _, [] => []
  | iv, c :: cs => (transform tw ks .dec c ^^^ iv) :: cbcDecBlocks tw ks c cs

/-- `cbc_encrypt(m, K)` (44_cbc_padding.md R117); its length is R130 (a). -/
def cbcEncrypt (tw : TwistTables) (m : List Byte) (K : BitVec 64) : List Byte :=
  ofBlocks (cbcEncBlocks tw (keySchedule K) fixedIV (toBlocks (padBytes m)))

/-- `P_0 ‖ P_1 ‖ ...` of 44_cbc_padding.md R118, before unpad. -/
def cbcDecryptRaw (tw : TwistTables) (c : List Byte) (K : BitVec 64) : List Byte :=
  ofBlocks (cbcDecBlocks tw (keySchedule K) fixedIV (toBlocks c))

/-- `cbc_decrypt(c, K)` (44_cbc_padding.md R118); `none` is PAD_UNDERFLOW. It gives back what `cbcEncrypt` took (R130 (b)). -/
def cbcDecrypt (tw : TwistTables) (c : List Byte) (K : BitVec 64) : Option (List Byte) :=
  unpadBytes (cbcDecryptRaw tw c K)

end Sys2Proof.Machine
end

