-- ==== Sys2Proof/Machine/Engine.lean ====
section
/-!
DEFINITION. The engine's micro-steps, one definition per phase of the sequencer (10_state.md R31; 41_key_schedule.md R93;
43_block_cipher.md R108; 44_cbc_padding.md R119 to R124), and the step that runs the one seq names.
-/

namespace Sys2Proof.Machine

/-- The outcome of a step of this machine. -/
abbrev Result := Host.Outcome State Fault Refusal

/-- The phase that follows the KEYGEN phase under an opcode (10_state.md R31). PAD and UNPAD have no KEYGEN phase, and a
number that is no opcode has none. -/
def phaseAfterKeygen (op : BitVec 4) : Option Phase :=
  if op = opcode .keygen then some .finish
  else if op = opcode .blockEnc ∨ op = opcode .blockDec then some .load
  else if op = opcode .encrypt then some .pad
  else if op = opcode .decrypt ∨ op = opcode .verify then some .load
  else none

/-- C and D that KEYGEN step r rotates: the halves of `perm(KEYREG, PC-1)` when r = 0, else C and D
(41_key_schedule.md R93). -/
def State.keygenHalves (s : State) : BitVec 28 × BitVec 28 :=
  if s.seq.round = 0#4 then keyHalves s.keyreg else (s.c, s.d)

/-- C, D, KS[r] after KEYGEN step r, and KSV, which its first step clears (41_key_schedule.md R93). -/
def State.keygenData (s : State) : State :=
  let cd := rotateHalves s.seq.round.toNat s.keygenHalves
  { s with
    c := cd.1
    d := cd.2
    ks := s.ks.set s.seq.round.toFin (subkeyOf cd)
    ksv := if s.seq.round = 0#4 then false else s.ksv }

/-- KEYGEN phase, step r (41_key_schedule.md R93). -/
def keygenStep (s : State) : Result :=
  if s.seq.round.toNat < 15 then
    .next (s.keygenData.goto .keygen 0#16 (s.seq.round + 1#4))
  else
    match phaseAfterKeygen s.op with
    | some p => .next (State.goto { s.keygenData with ksv := true } p 0#16 0#4)
    | none => .fault .noNextPhase

/-- The chaining value LOAD uses: reset to the fixed constant at block 0 of a CBC command (44_cbc_padding.md R119). -/
def State.loadIV (s : State) : Block :=
  if s.seq.block = 0#16 ∧ s.mode ≠ .ecb1 then fixedIV else s.iv

/-- What LOAD hands to the initial permutation (44_cbc_padding.md R119). -/
def State.loadInput (s : State) (blk : Block) : Block :=
  match s.mode with
  | .ecb1 => blk
  | .cbce => blk ^^^ s.loadIV
  | .cbcd => blk

/-- IV, CSAVE, L and R after LOAD of block `blk` (44_cbc_padding.md R119). -/
def State.loadData (s : State) (blk : Block) : State :=
  let lr := splitBlock (s.loadInput blk)
  { s with
    iv := s.loadIV
    csave := if s.mode = .cbcd then blk else s.csave
    l := lr.1
    r := lr.2 }

/-- LOAD step of block i (44_cbc_padding.md R119). -/
def loadStep (s : State) : Result :=
  if 8 * s.seq.block.toNat + 8 ≤ Config.nBuf then
    .next ((s.loadData (s.mbuf.readBlock s.seq.block.toNat)).goto .round s.seq.block 0#4)
  else .fault .bufferRange

/-- ROUND step r of block i (43_block_cipher.md R108). -/
def roundStep (s : State) : Result :=
  let lr := feistelRound Config.twist (roundKey s.ks s.dirn s.seq.round) (s.l, s.r)
  let s1 := { s with l := lr.1, r := lr.2 }
  if s.seq.round.toNat < 15 then .next (s1.goto .round s.seq.block (s.seq.round + 1#4))
  else .next (s1.goto .store s.seq.block 0#4)

/-- The block STORE writes (44_cbc_padding.md R120). -/
def State.storeOutput (s : State) : Block :=
  match s.mode with
  | .ecb1 => joinBlock (s.l, s.r)
  | .cbce => joinBlock (s.l, s.r)
  | .cbcd => joinBlock (s.l, s.r) ^^^ s.iv

/-- The chaining value after STORE: the ciphertext block (44_cbc_padding.md R120). -/
def State.storeIV (s : State) : Block :=
  match s.mode with
  | .ecb1 => s.iv
  | .cbce => joinBlock (s.l, s.r)
  | .cbcd => s.csave

/-- Where the sequencer goes after STORE of block i (44_cbc_padding.md R120). -/
def State.storeNext (s : State) : Seq :=
  if s.seq.block.toNat + 1 < s.nblk.toNat then { phase := .load, block := s.seq.block + 1#16, round := 0#4 }
  else if s.op = opcode .decrypt ∨ s.op = opcode .verify then { phase := .unpad, block := s.seq.block, round := 0#4 }
  else { phase := .finish, block := s.seq.block, round := 0#4 }

/-- STORE step of block i (44_cbc_padding.md R120). -/
def storeStep (s : State) : Result :=
  if 8 * s.seq.block.toNat + 8 ≤ Config.nBuf then
    .next { s with
      mbuf := s.mbuf.writeBlock s.seq.block.toNat s.storeOutput
      iv := s.storeIV
      seq := s.storeNext }
  else .fault .bufferRange

/-- The padded length NPLEN of a message of NLEN bytes (44_cbc_padding.md R121). -/
def State.paddedLen (s : State) : Nat := s.nlen.toNat + padlen s.nlen.toNat

/-- MBUF, NPLEN and RLEN after PAD (44_cbc_padding.md R121). -/
def State.padData (s : State) : State :=
  { s with
    mbuf := s.mbuf.writeList s.nlen.toNat (padTail s.nlen.toNat)
    nplen := BitVec.ofNat 32 s.paddedLen
    rlen := BitVec.ofNat 32 s.paddedLen }

/-- PAD step (44_cbc_padding.md R121). -/
def padStep (s : State) : Result :=
  if s.paddedLen ≤ Config.nBuf then
    if s.op = opcode .encrypt then
      .next (State.goto { s.padData with nblk := BitVec.ofNat 16 (s.paddedLen / 8) } .load 0#16 0#4)
    else
      .next (State.goto { s.padData with nblk := 0#16 } .finish 0#16 0#4)
  else .fault .bufferRange

/-- The zero bytes at the end of MBUF[0, NLEN) (44_cbc_padding.md R122). -/
def State.zeroTail (s : State) : Nat := s.mbuf.trailingZeros s.nlen.toNat

/-- UNPAD step (44_cbc_padding.md R122). It does not write MBUF. -/
def unpadStep (s : State) : Result :=
  if s.nlen.toNat ≤ Config.nBuf then
    if s.nlen.toNat < s.zeroTail + 1 then .next (s.raise .padUnderflow)
    else
      .next (State.goto { s with rlen := BitVec.ofNat 32 (s.nlen.toNat - s.zeroTail - 1) }
        (if s.op = opcode .verify then .compare else .finish) s.seq.block 0#4)
  else .fault .bufferRange

/-- The result of COMPARE: exact length and content match (44_cbc_padding.md R123). -/
def State.compareResult (s : State) : Bool :=
  decide (s.rlen = s.nvlen) && (s.mbuf.bytes 0 s.rlen.toNat == s.vbuf.bytes 0 s.rlen.toNat)

/-- COMPARE step (44_cbc_padding.md R123). When RLEN and NVLEN differ no byte is compared. -/
def compareStep (s : State) : Result :=
  if s.rlen ≠ s.nvlen ∨ s.rlen.toNat ≤ Config.nBuf then
    .next (State.goto { s with vok := s.compareResult } .finish s.seq.block 0#4)
  else .fault .bufferRange

/-- FINISH step (44_cbc_padding.md R124). -/
def finishStep (s : State) : Result := .next s.finish

/-- One micro-step of the engine: the one seq names (10_state.md R31). In IDLE the engine waits (70_reset_and_hazards.md
R153): nothing changes (DESIGN CHOICE, safe, log 14). -/
def engineStep (s : State) : Result :=
  match s.seq.phase with
  | .idle => .next s
  | .keygen => keygenStep s
  | .pad => padStep s
  | .load => loadStep s
  | .round => roundStep s
  | .store => storeStep s
  | .unpad => unpadStep s
  | .compare => compareStep s
  | .finish => finishStep s

/-- `k` micro-steps of the engine with no host access between them, stopping at a fault. -/
def engineRun : Nat → State → Result
  | 0, s => .next s
  | k + 1, s =>
    match engineStep s with
    | .next t => engineRun k t
    | .fault f => .fault f
    | .refused q => .refused q

end Sys2Proof.Machine
end

