-- ==== Sys2Proof/Machine/BlockCommands.lean ====
section
/-!
DEFINITION. The block cipher family: BLOCK_ENC and BLOCK_DEC (43_block_cipher.md R110, R111). LEN and VLEN are ignored; no
IV and no padding are applied. What a CMD write does is said in Machine/KeyCommands.lean.
-/

namespace Sys2Proof.Machine

/-- BLOCK_ENC (43_block_cipher.md R110): transform MBUF[0, 8) in direction ENC. Phases: KEYGEN, LOAD, ROUND, STORE,
FINISH. -/
def execBlockEnc (s : State) : Result :=
  .next (s.submit .blockEnc [s.keyCheck]
    { dirn := .enc, mode := .ecb1, nblk := 1#16, rlen := 8#32, first := .keygen })

/-- BLOCK_DEC (43_block_cipher.md R111): transform MBUF[0, 8) in direction DEC. Phases as BLOCK_ENC. -/
def execBlockDec (s : State) : Result :=
  .next (s.submit .blockDec [s.keyCheck]
    { dirn := .dec, mode := .ecb1, nblk := 1#16, rlen := 8#32, first := .keygen })

end Sys2Proof.Machine
end

