-- ==== Sys2Proof/Machine/KeyCommands.lean ====
section
/-!
DEFINITION. The key schedule family: KEYGEN (41_key_schedule.md R95). A command's meaning is what the host's CMD write does
(10_state.md R17, 60_exceptions.md R133): it is dropped while BUSY = 1, else rejected or started; the micro-steps of
Machine/Engine.lean then carry a started command out. DESIGN CHOICE, safe, log 1.
-/

namespace Sys2Proof.Machine

/-- KEYGEN (41_key_schedule.md R95): derive the 16 subkeys from KEYREG. Phases: KEYGEN, FINISH. -/
def execKeygen (s : State) : Result :=
  .next (s.submit .keygen [s.keyCheck]
    { dirn := .enc, mode := .cbce, nblk := 0#16, rlen := 0#32, first := .keygen })

end Sys2Proof.Machine
end

