-- ==== Sys2Proof/Machine/MessageCommands.lean ====
section
/-!
DEFINITION. The padding and message family: PAD, UNPAD, ENCRYPT, DECRYPT, VERIFY (44_cbc_padding.md R125 to R129). Each
lists its acceptance checks in the order of 60_exceptions.md R133, R134. What a CMD write does is said in
Machine/KeyCommands.lean.
-/

namespace Sys2Proof.Machine

/-- PAD (44_cbc_padding.md R125): append the marker padding to MBUF[0, LEN). No key needed. Phases: PAD, FINISH. -/
def execPad (s : State) : Result :=
  .next (s.submit .pad [s.lenBelowCheck]
    { dirn := .enc, mode := .cbce, nblk := 0#16, rlen := 0#32, first := .pad })

/-- UNPAD (44_cbc_padding.md R126): remove padding from MBUF[0, LEN). No key needed. Phases: UNPAD, FINISH. -/
def execUnpad (s : State) : Result :=
  .next (s.submit .unpad [s.lenCheck]
    { dirn := .enc, mode := .cbce, nblk := 0#16, rlen := 0#32, first := .unpad })

/-- ENCRYPT (44_cbc_padding.md R127): pad and CBC-encrypt MBUF[0, LEN) in place. NBLK is set by the PAD step. Phases:
KEYGEN, PAD, then LOAD, ROUND, STORE for each block, FINISH. -/
def execEncrypt (s : State) : Result :=
  .next (s.submit .encrypt [s.keyCheck, s.lenBelowCheck]
    { dirn := .enc, mode := .cbce, nblk := 0#16, rlen := 0#32, first := .keygen })

/-- DECRYPT (44_cbc_padding.md R128): CBC-decrypt MBUF[0, LEN) in place and unpad. Phases: KEYGEN, then LOAD, ROUND, STORE
for each block, UNPAD, FINISH. -/
def execDecrypt (s : State) : Result :=
  .next (s.submit .decrypt [s.keyCheck, s.blocksCheck, s.lenCheck]
    { dirn := .dec, mode := .cbcd, nblk := BitVec.ofNat 16 (s.len.toNat / 8), rlen := 0#32, first := .keygen })

/-- VERIFY (44_cbc_padding.md R129): DECRYPT, then compare with VBUF[0, VLEN). Phases as DECRYPT, with COMPARE before
FINISH. -/
def execVerify (s : State) : Result :=
  .next (s.submit .verify [s.keyCheck, s.blocksCheck, s.lenCheck, s.vlenCheck]
    { dirn := .dec, mode := .cbcd, nblk := BitVec.ofNat 16 (s.len.toNat / 8), rlen := 0#32, first := .keygen })

end Sys2Proof.Machine
end

