-- ==== Sys2Proof/Machine/Bus.lean ====
section
/-!
DEFINITION. Host accesses (10_state.md R14 to R33, R42, R43; 20_memory.md R49, R50, R55) and whose turn a step is
(20_memory.md R60, 70_reset_and_hazards.md R151).
-/

namespace Sys2Proof.Machine

/-! ### Addresses -/

/-- The host address of an offset: BASE + offset (00_scope.md R7, 30_encoding.md R71). -/
def busAddress (off : Nat) : Nat := Config.base + off

/-- The offset a host address names, if it lies in the block (00_scope.md R7, 10_state.md R14). -/
def offsetOf (addr : Nat) : Option Nat :=
  if Config.base ≤ addr ∧ addr < Config.base + 0x4000 then some (addr - Config.base) else none

/-! ### Reads -/

/-- A read that returns `v` to the host. No read has a side effect on the engine (20_memory.md R56). -/
def State.reply (s : State) (v : Word) : State := { s with replies := v :: s.replies }

/-- A read of an MBUF or SUBKEY word: `v` while BUSY = 0, an arbitrary word while BUSY = 1, drawn anew for each read
(10_state.md R42). -/
def State.replyIdle (s : State) (v : Word) : State :=
  if s.busy then State.reply { s with draws := s.draws + 1 } (Config.busyRead s.draws) else s.reply v

/-- A read at an offset outside the block returns a word that is not the engine's: a free value, drawn anew for each read.
DESIGN CHOICE, safe, log 21. -/
def State.replyOutside (s : State) : State := State.reply { s with draws := s.draws + 1 } (Config.outsideRead s.draws)

/-- A host read of one word (10_state.md R14 to R33, R42; 20_memory.md R50). -/
def readPlace (p : Place) (s : State) : State :=
  match p with
  | .caps => s.reply capsWord
  | .ctrl => s.reply s.ctrlWord
  | .cmd => s.reply 0#32
  | .status => s.reply s.statusWord
  | .errcode => s.reply s.errcodeWord
  | .len => s.reply s.len
  | .outlen => s.reply s.outlen
  | .vlen => s.reply s.vlen
  | .key0 => s.reply 0#32
  | .key1 => s.reply 0#32
  | .progress => s.reply s.progressWord
  | .subkey r first => s.replyIdle (s.subkeyWord r first)
  | .mbuf a => s.replyIdle (s.mbuf.readBytes a 4)
  | .vbuf a => s.reply (s.vbuf.readBytes a 4)
  | .reserved => s.reply 0#32
  | .outside => s.replyOutside

/-! ### Writes -/

/-- A write that is dropped while BUSY = 1 (10_state.md R43) and has the effect `t` else. -/
def State.whenIdle (s t : State) : State := if s.busy then s.dropWrite else t

/-- A performed write of KEY0: `KEYREG⟨0..32) <- w` (10_state.md R30). -/
def State.setKey0 (s : State) (v : Word) : State :=
  { s with keyreg := v ++ s.keyreg.extractLsb' 0 32, key0Set := true, ksv := false }

/-- A performed write of KEY1: `KEYREG⟨32..64) <- w` (10_state.md R30). -/
def State.setKey1 (s : State) (v : Word) : State :=
  { s with keyreg := s.keyreg.extractLsb' 32 32 ++ v, key1Set := true, ksv := false }

/-- A host write of `v` to CMD: the command decoder takes it (10_state.md R17, 30_encoding.md R66). -/
def cmdWrite (v : Word) (s : State) : Result :=
  match decode v with
  | .ok i => exec i s
  | .illegal _ => .next s.submitIllegal

/-- A host write of one word (10_state.md R14 to R33, R43; 20_memory.md R50). A write outside the block does not reach the
engine (DESIGN CHOICE, safe, log 21). -/
def writePlace (p : Place) (v : Word) (s : State) : Result :=
  match p with
  | .caps => .next s
  | .ctrl => .next (s.writeCtrl v)
  | .cmd => cmdWrite v s
  | .status => .next (s.writeStatus v)
  | .errcode => .next s
  | .len => .next (s.whenIdle { s with len := v })
  | .outlen => .next s
  | .vlen => .next (s.whenIdle { s with vlen := v })
  | .key0 => .next (s.whenIdle (s.setKey0 v))
  | .key1 => .next (s.whenIdle (s.setKey1 v))
  | .progress => .next s
  | .subkey _ _ => .next s
  | .mbuf a => .next (s.whenIdle { s with mbuf := s.mbuf.writeBytes a 4 v })
  | .vbuf a => .next (s.whenIdle { s with vbuf := s.vbuf.writeBytes a 4 v })
  | .reserved => .next s
  | .outside => .next s

/-! ### Transactions -/

/-- Only 32-bit aligned accesses have a meaning; the others are refused (20_memory.md R55). -/
def accessCheck (width : Width) (off : Nat) : Option Refusal :=
  if width ≠ .word then some .subWordAccess
  else if off % 4 ≠ 0 then some .unalignedAccess
  else none

/-- The last word a read returned. -/
def State.lastReply (s : State) : Word := s.replies.headD 0#32

/-- A poll whose read returned a word: it is over when the word matches, else the host polls again (30_encoding.md R72). DESIGN
CHOICE, safe, log 18. -/
def pollAgain (off : Nat) (mask val : Word) (s : State) : State :=
  if s.lastReply &&& mask = val then s else { s with prog := .poll off mask val :: s.prog }

/-- One host access (30_encoding.md R71, R72). -/
def hostAccess (h : HostOp) (s : State) : Result :=
  match h with
  | .write width off v =>
    match accessCheck width off with
    | some q => .refused q
    | none => writePlace (placeOf off) v s
  | .read width off =>
    match accessCheck width off with
    | some q => .refused q
    | none => .next (readPlace (placeOf off) s)
  | .poll off mask val =>
    match accessCheck .word off with
    | some q => .refused q
    | none => .next (pollAgain off mask val (readPlace (placeOf off) s))

/-- The host's turn: its next transaction leaves the list and takes effect. A host with nothing left to do waits:
DESIGN CHOICE, safe, log 14. -/
def hostStep (s : State) : Result :=
  match s.prog with
  | [] => .next s
  | h :: rest => hostAccess h { s with prog := rest }

/-- What one agent's turn does. -/
def turnStep (t : Turn) (s : State) : Result :=
  match t with
  | .host => hostStep s
  | .engine => engineStep s
  | .reset => .next s.resetEvent

/-- Whose turn it is when the schedule has run out: the engine's while a command runs, else the host's, so that neither
waits for ever (20_memory.md R60). DESIGN CHOICE, log 2. -/
def State.defaultTurn (s : State) : Turn := if s.busy then .engine else .host

/-- One step: the turn the schedule names (20_memory.md R60). -/
def scheduledStep (s : State) : Result :=
  match s.sched with
  | [] => turnStep s.defaultTurn s
  | t :: rest => turnStep t { s with sched := rest }

/-- The host's next transaction becomes `h`, and the next turn the host's. -/
def State.hostNext (s : State) (h : HostOp) : State := { s with prog := h :: s.prog, sched := .host :: s.sched }

end Sys2Proof.Machine
end

