-- ==== Sys2Proof/Machine/HostProgram.lean ====
section
/-!
DEFINITION. The pseudo-instructions of host programs and the API sequences (30_encoding.md R72 to R74), as lists of
transactions. A key is given as its eight bytes in one 64-bit string (20_memory.md R47).
-/

namespace Sys2Proof.Machine

/-- `WR off, v` -/
def WR (off : Nat) (v : Word) : HostOp := .write .word off v

/-- `RD off` -/
def RD (off : Nat) : HostOp := .read .word off

/-- `SETKEY k0..k7` (30_encoding.md R73). -/
def setKeyOps (key : BitVec 64) : List HostOp :=
  [WR 0x020 (substr key 0 32), WR 0x024 (substr key 32 32)]

/-- The words of a FILL from offset `off` on, missing bytes of the last word 0x00 (30_encoding.md R73): the offsets rise by 4
with no bound, for a string longer than the window beyond it. -/
def fillOps (off : Nat) : List Byte → List HostOp
  | [] => []
  | [b0] => [WR off (b0 ++ 0#8 ++ 0#8 ++ 0#8)]
  | [b0, b1] => [WR off (b0 ++ b1 ++ 0#8 ++ 0#8)]
  | [b0, b1, b2] => [WR off (b0 ++ b1 ++ b2 ++ 0#8)]
  | b0 :: b1 :: b2 :: b3 :: rest => WR off (b0 ++ b1 ++ b2 ++ b3) :: fillOps (off + 4) rest

/-- `FILL MBUF, b0..bn-1` (30_encoding.md R73). -/
def fillMbufOps (bs : List Byte) : List HostOp := fillOps 0x1000 bs

/-- `FILL VBUF, b0..bn-1` (30_encoding.md R73). -/
def fillVbufOps (bs : List Byte) : List HostOp := fillOps 0x2000 bs

/-- `SETLEN n` (30_encoding.md R73). -/
def setLenOp (n : Word) : HostOp := WR 0x014 n

/-- `SETVLEN n` (30_encoding.md R73). -/
def setVlenOp (n : Word) : HostOp := WR 0x01C n

/-- A command mnemonic: `WR 0x008, OP` (30_encoding.md R73). -/
def commandOp (i : Instr) : HostOp := WR 0x008 (encode i)

/-- `WAIT`: poll STATUS until BUSY = 0 (30_encoding.md R73). -/
def waitOp : HostOp := .poll 0x00C 0x00000001#32 0x00000000#32

/-- `ACK`: clear DONE (30_encoding.md R73). -/
def ackOp : HostOp := WR 0x00C 0x00000002#32

/-- The data word of SETLEN or SETVLEN for a byte string (30_encoding.md R74): its length modulo 2^32. DESIGN CHOICE, log 22:
the spec does not say what the 32-bit word is for a string of 2^32 bytes or more. -/
def lengthWord (bs : List Byte) : Word := BitVec.ofNat 32 bs.length

/-- `encrypt(plaintext, key)` (30_encoding.md R74); the length of 2^32 bytes or more: `lengthWord`, log 22. -/
def encryptProgram (plaintext : List Byte) (key : BitVec 64) : List HostOp :=
  setKeyOps key ++ fillMbufOps plaintext ++
    [setLenOp (lengthWord plaintext), commandOp .encrypt, waitOp]

/-- `decrypt(ciphertext, key)` (30_encoding.md R74); the length of 2^32 bytes or more: `lengthWord`, log 22. -/
def decryptProgram (ciphertext : List Byte) (key : BitVec 64) : List HostOp :=
  setKeyOps key ++ fillMbufOps ciphertext ++
    [setLenOp (lengthWord ciphertext), commandOp .decrypt, waitOp]

/-- `verify(plaintext, ciphertext, key)` (30_encoding.md R74); lengths of 2^32 bytes or more: `lengthWord`, log 22. -/
def verifyProgram (plaintext ciphertext : List Byte) (key : BitVec 64) : List HostOp :=
  setKeyOps key ++ fillMbufOps ciphertext ++ [setLenOp (lengthWord ciphertext)] ++
    fillVbufOps plaintext ++ [setVlenOp (lengthWord plaintext), commandOp .verify, waitOp]

end Sys2Proof.Machine
end

