-- ==== Sys2Proof/Machine/Step.lean ====
section
/-!
DEFINITION. The machine's step, and how the host has an instruction run next.
-/

namespace Sys2Proof.Machine

/-- One step of the machine: one host access, one micro-step of the engine, or a reset, as the schedule says
(20_memory.md R60). -/
def step (s : State) : Host.Outcome State Fault Refusal := scheduledStep s

/-- The state in which the very next step is the host's write of the given word to CMD: a command comes to the engine in no
other way (20_memory.md R63, 70_reset_and_hazards.md R153). DESIGN CHOICE, safe, log 15. -/
def State.withFetchWord (s : State) (nbits w : Nat) : State :=
  s.hostNext (.write .word 0x008 ((tableWord nbits w).getD 0#32))

end Sys2Proof.Machine
end

