-- ==== Sys2Proof/Safety.lean ====
section
/-!
DEFINITION. The terms claims about the machine are stated in: the invariants of a run, what a finished command leaves to
the host, and the runs of the engine alone or among host accesses.
-/

namespace Sys2Proof.Machine

/-! ### What the rules say of each command -/

/-- The commands that need the key (30_encoding.md R67). -/
def needsKey : Instr → Bool
  | .keygen => true
  | .blockEnc => true
  | .blockDec => true
  | .pad => false
  | .unpad => false
  | .encrypt => true
  | .decrypt => true
  | .verify => true

/-- The phases of a command (10_state.md R31). -/
def phasesOf : Instr → List Phase
  | .keygen => [.keygen, .finish]
  | .blockEnc => [.keygen, .load, .round, .store, .finish]
  | .blockDec => [.keygen, .load, .round, .store, .finish]
  | .pad => [.pad, .finish]
  | .unpad => [.unpad, .finish]
  | .encrypt => [.keygen, .pad, .load, .round, .store, .finish]
  | .decrypt => [.keygen, .load, .round, .store, .unpad, .finish]
  | .verify => [.keygen, .load, .round, .store, .unpad, .compare, .finish]

/-- The first phase of a command (60_exceptions.md R133). -/
def firstPhase : Instr → Phase
  | .pad => .pad
  | .unpad => .unpad
  | _ => .keygen

/-- DIRN of a command (60_exceptions.md R133). -/
def dirOf : Instr → Dir
  | .blockDec => .dec
  | .decrypt => .dec
  | .verify => .dec
  | _ => .enc

/-- MODE of a command (60_exceptions.md R133). -/
def modeOf : Instr → Mode
  | .blockEnc => .ecb1
  | .blockDec => .ecb1
  | .decrypt => .cbcd
  | .verify => .cbcd
  | _ => .cbce

/-- NBLK at acceptance, for an input of `n` bytes (60_exceptions.md R133). -/
def startBlocks (i : Instr) (n : Nat) : Nat :=
  match i with
  | .blockEnc => 1
  | .blockDec => 1
  | .decrypt => n / 8
  | .verify => n / 8
  | _ => 0

/-- RLEN at acceptance (60_exceptions.md R133). -/
def startResult : Instr → Nat
  | .blockEnc => 8
  | .blockDec => 8
  | _ => 0

/-- The lengths a command accepts (60_exceptions.md R134): `n` is LEN and `v` is VLEN. -/
def lengthsOk (i : Instr) (n v : Nat) : Prop :=
  match i with
  | .keygen => True
  | .blockEnc => True
  | .blockDec => True
  | .pad => n ≤ Config.nBuf - 1
  | .unpad => n ≤ Config.nBuf
  | .encrypt => n ≤ Config.nBuf - 1
  | .decrypt => n ≠ 0 ∧ n % 8 = 0 ∧ n ≤ Config.nBuf
  | .verify => n ≠ 0 ∧ n % 8 = 0 ∧ n ≤ Config.nBuf ∧ v ≤ Config.nBuf

/-- Both key words have been written since reset (10_state.md R25). -/
def State.keyPresent (s : State) : Prop := s.key0Set = true ∧ s.key1Set = true

/-- An idle engine accepts command `i` in this state: the operand checks pass (60_exceptions.md R133, R134). -/
def State.Accepts (s : State) (i : Instr) : Prop :=
  s.busy = false ∧ (needsKey i = true → s.keyPresent) ∧ lengthsOk i s.len.toNat s.vlen.toNat

/-- What a rejection with code `e` leaves (60_exceptions.md R133): nothing but the status and seq has changed. -/
def State.rejectedWith (s : State) (e : ErrCode) : State :=
  { s with
    done := true, verifyOk := false, errcode := e, outlen := 0#32, epend := .none
    seq := { phase := .idle, block := 0#16, round := 0#4 } }

/-! ### Invariants -/

/-- NBLK while command `i` runs on NLEN bytes: ENCRYPT sets it in its PAD step (44_cbc_padding.md R121). -/
def blocksWhile (i : Instr) (p : Phase) (n : Nat) : Nat :=
  match i with
  | .encrypt => if p = .keygen ∨ p = .pad then 0 else n / 8 + 1
  | _ => startBlocks i n

/-- Command `i` is the one running, in a phase of its own, with its operands latched and in range (10_state.md R31, R39,
60_exceptions.md R133, R134). -/
structure State.Runs (s : State) (i : Instr) : Prop where
  op : s.op = opcode i
  phase : s.seq.phase ∈ phasesOf i
  key : needsKey i = true → s.keyPresent
  dirn : s.dirn = dirOf i
  mode : s.mode = modeOf i
  lengths : lengthsOk i s.nlen.toNat s.nvlen.toNat
  blocks : s.nblk.toNat = blocksWhile i s.seq.phase s.nlen.toNat
  block : s.seq.phase = .load ∨ s.seq.phase = .round ∨ s.seq.phase = .store → s.seq.block.toNat < s.nblk.toNat
  result : s.rlen.toNat ≤ Config.nBuf
  pending : s.seq.phase ≠ .finish → s.epend = .none

/-- The invariant of every run: the buffers keep their canonical form and hold nothing at or above N_BUF; BUSY says
whether the sequencer is idle; the results read zero while a command runs; the running command is one of the eight, with
operands in range; no register holds a code that is never produced (60_exceptions.md R131, R150) or a length beyond
N_BUF. -/
structure State.Inv (s : State) : Prop where
  mbufWf : s.mbuf.wf
  vbufWf : s.vbuf.wf
  mbufRange : s.mbuf.inRange
  vbufRange : s.vbuf.inRange
  busyPhase : s.busy = true ↔ s.seq.phase ≠ .idle
  round : s.seq.phase ≠ .keygen → s.seq.phase ≠ .round → s.seq.round = 0#4
  quiet : s.busy = true → s.done = false ∧ s.verifyOk = false ∧ s.errcode = .none ∧ s.outlen = 0#32
  command : s.busy = true → ∃ i, s.Runs i
  errcode : s.errcode ≠ .emptyInput
  epend : s.epend = .none ∨ s.epend = .padUnderflow
  outlen : s.outlen.toNat ≤ Config.nBuf

/-- The invariant of the subkey table: while KEYS_VALID = 1 it is the schedule of KEYREG (10_state.md R23); during the
KEYGEN phase the rounds done so far are (41_key_schedule.md R93); after it, a command that needs the key has a valid
table while it transforms blocks (R94). -/
structure State.KeysInv (s : State) : Prop where
  valid : s.ksv = true → s.ks = keySchedule s.keyreg
  generating : s.seq.phase = .keygen → 0 < s.seq.round.toNat →
    s.ksv = false ∧ (s.c, s.d) = halvesAfter s.keyreg s.seq.round.toNat ∧
      ∀ j : Fin 16, j.val < s.seq.round.toNat → s.ks[j] = subkey s.keyreg j.val
  generated : s.seq.phase = .load ∨ s.seq.phase = .round ∨ s.seq.phase = .store ∨
    (s.seq.phase = .pad ∧ s.op = opcode .encrypt) → s.ksv = true

/-! ### Runs -/

/-- The turns of a list, one after the other, whatever the state's own schedule says, stopping where one does. -/
def interleave : List Turn → State → Result
  | [], s => .next s
  | t :: rest, s =>
    match turnStep t s with
    | .next u => interleave rest u
    | .fault f => .fault f
    | .refused q => .refused q

/-- Two states in which the same command stands at the same point: they agree on everything but CTRL.IE, DONE, WDROP and
the host's side of the bus. -/
def State.SameCommand (s t : State) : Prop :=
  t = { s with
    ie := t.ie, done := t.done, wdrop := t.wdrop,
    draws := t.draws, prog := t.prog, sched := t.sched, replies := t.replies }

/-! ### What a command leaves to the host -/

/-- The engine steps of a command from its acceptance to BUSY = 0, for `n` blocks (70_reset_and_hazards.md R160). VERIFY
takes one less when UNPAD raises PAD_UNDERFLOW. -/
def commandSteps (i : Instr) (n : Nat) : Nat :=
  match i with
  | .keygen => 17
  | .blockEnc => 35
  | .blockDec => 35
  | .pad => 2
  | .unpad => 2
  | .encrypt => 16 + 1 + 18 * n + 1
  | .decrypt => 16 + 18 * n + 1 + 1
  | .verify => 16 + 18 * n + 1 + 1 + 1

/-- What FINISH leaves (44_cbc_padding.md R124), and what no command writes: the host's registers and the key, VBUF, WDROP
and the host's side of the bus. `s` is the state the command was written in. -/
structure Finished (s u : State) (e : ErrCode) (out blocks : Nat) (vok : Bool) : Prop where
  busy : u.busy = false
  done : u.done = true
  errcode : u.errcode = e
  outlen : u.outlen.toNat = out
  verifyOk : u.verifyOk = vok
  seq : u.seq.phase = .idle ∧ u.seq.block.toNat = blocks ∧ u.seq.round = 0#4
  ie : u.ie = s.ie
  wdrop : u.wdrop = s.wdrop
  key0Set : u.key0Set = s.key0Set
  key1Set : u.key1Set = s.key1Set
  len : u.len = s.len
  vlen : u.vlen = s.vlen
  keyreg : u.keyreg = s.keyreg
  vbuf : u.vbuf = s.vbuf
  draws : u.draws = s.draws
  prog : u.prog = s.prog
  sched : u.sched = s.sched
  replies : u.replies = s.replies

/-- The subkey table shows the schedule of the key (41_key_schedule.md R94). -/
def State.keysReady (s : State) : Prop := s.ksv = true ∧ s.ks = keySchedule s.keyreg

/-- Every byte of MBUF from `n` on is as it was (20_memory.md R54). -/
def sameAbove (n : Nat) (s u : State) : Prop := ∀ a, n ≤ a → u.mbuf.read a = s.mbuf.read a

end Sys2Proof.Machine
end

