-- ==== Sys2Proof/Certificates/Slice0/Obligations.lean ====
section
/-!
DEFINITION. The statements about the model. Each docstring names the rules of spec/ it formalises.
-/

open Sys2Proof Sys2Proof.Machine

/-! ### Encoding -/

/-- 30_encoding.md R66: a word is valid exactly when `w[31:4] = 0` and `w[3:0]` is 1 to 8, and its opcode is then `w[3:0]`;
any other word, written while BUSY = 0, is rejected with BAD_COMMAND and changes nothing else; the decoder is total. -/
def Obligations.ValidCommandWords : Prop :=
  (∀ w : Word, (∃ i, decode w = .ok i) ↔
    w.extractLsb' 4 28 = 0#28 ∧ 1 ≤ (w.extractLsb' 0 4).toNat ∧ (w.extractLsb' 0 4).toNat ≤ 8) ∧
  (∀ (w : Word) (i : Instr), decode w = .ok i → opcode i = w.extractLsb' 0 4) ∧
  ∀ (w : Word) (s : State), (¬∃ i, decode w = .ok i) → s.busy = false →
    cmdWrite w s = .next (s.rejectedWith .badCommand)

/-- 30_encoding.md R65, R66, R67: decoding and encoding agree both ways: each command word has one meaning. -/
def Obligations.DecodeAndEncodeAgree : Prop :=
  (∀ i : Instr, i.wf = true → decode (encode i) = .ok i) ∧ ∀ (w : Word) (i : Instr), decode w = .ok i → w = encode i

/-- 30_encoding.md R67, R69: the eight words of the opcode map, and words that R69 names illegal. -/
def Obligations.OpcodeMapWords : Prop :=
  decode 0x00000001#32 = .ok .keygen ∧ decode 0x00000002#32 = .ok .blockEnc ∧ decode 0x00000003#32 = .ok .blockDec ∧
  decode 0x00000004#32 = .ok .pad ∧ decode 0x00000005#32 = .ok .unpad ∧ decode 0x00000006#32 = .ok .encrypt ∧
  decode 0x00000007#32 = .ok .decrypt ∧ decode 0x00000008#32 = .ok .verify ∧
  decode 0x00000000#32 = .illegal .opZero ∧ decode 0x00000009#32 = .illegal .opReserved ∧
  decode 0x0000000F#32 = .illegal .opReserved ∧ decode 0x00000011#32 = .illegal .mustBeZero ∧
  decode 0x80000001#32 = .illegal .mustBeZero

/-! ### Steps -/

/-- 30_encoding.md R66, 20_memory.md R60, R63: on the host's turn a write of a valid word to CMD runs the decoded command
on the state in which the transaction and the turn are used up; so does the step the opcode table's words are tried in. -/
def Obligations.StepRunsDecodedCommand : Prop :=
  (∀ (s : State) (w : Word) (i : Instr) (rest : List HostOp), s.prog = .write .word 0x008 w :: rest → decode w = .ok i →
    (∀ sch, s.sched = .host :: sch → step s = exec i { s with prog := rest, sched := sch }) ∧
    (s.sched = [] → s.busy = false → step s = exec i { s with prog := rest })) ∧
  ∀ (s : State) (nbits w : Nat) (v : Word) (i : Instr), tableWord nbits w = some v → decode v = .ok i →
    step (s.withFetchWord nbits w) = exec i s

/-- 20_memory.md R60, 70_reset_and_hazards.md R151: a step is the turn the schedule names, with that turn used up: one
micro-step of the engine, one turn of the host, or a reset event; with no turn named, the engine has the turn while a command
runs and the host has it else (that default is the model's choice, log 2). -/
def Obligations.StepRunsTheEngine : Prop :=
  ∀ s : State,
    (∀ sch, s.sched = .engine :: sch → step s = engineStep { s with sched := sch }) ∧
    (∀ sch, s.sched = .host :: sch → step s = hostStep { s with sched := sch }) ∧
    (∀ sch, s.sched = .reset :: sch → step s = .next (State.resetEvent { s with sched := sch })) ∧
    (s.sched = [] → s.busy = true → step s = engineStep s) ∧
    (s.sched = [] → s.busy = false → step s = hostStep s)

/-- 30_encoding.md R71, 20_memory.md R60: the host's turn carries out its next transaction, which leaves the list: an aligned
word write writes the place its offset names, an aligned word read reads it; with no transaction left the host waits (the
model's choice, log 14), and a write outside the block changes nothing (the model's choice, log 21). -/
def Obligations.HostTurnRunsNextTransaction : Prop :=
  (∀ (s : State) (h : HostOp) (rest : List HostOp), s.prog = h :: rest →
    hostStep s = hostAccess h { s with prog := rest }) ∧
  (∀ s : State, s.prog = [] → hostStep s = .next s) ∧
  (∀ (s : State) (v : Word), writePlace .outside v s = .next s) ∧
  ∀ (s : State) (off : Nat) (v : Word), off % 4 = 0 →
    hostAccess (.write .word off v) s = writePlace (placeOf off) v s ∧
    hostAccess (.read .word off) s = .next (readPlace (placeOf off) s)

/-! ### Acceptance -/

/-- 60_exceptions.md R133, 10_state.md R31, R39: an idle engine whose checks pass starts the command: the results are
cleared, the operands latched, BUSY set, seq at the first phase, and nothing else changes. All eight commands. -/
def Obligations.AcceptedCommandStarts : Prop :=
  ∀ (i : Instr) (s : State), s.Accepts i →
    exec i s = .next { s with
      done := false, verifyOk := false, errcode := .none, outlen := 0#32, epend := .none
      op := opcode i, nlen := s.len, nvlen := s.vlen, dirn := dirOf i, mode := modeOf i
      nblk := BitVec.ofNat 16 (startBlocks i s.len.toNat), rlen := BitVec.ofNat 32 (startResult i), vok := false
      busy := true, seq := { phase := firstPhase i, block := 0#16, round := 0#4 } }

/-- 60_exceptions.md R133, R137: an idle engine whose checks do not pass rejects the command, with one of the three codes of
R131 that checks report; no state but DONE, ERRCODE, OUTLEN, VERIFY_OK, EPEND and seq changes. -/
def Obligations.RejectedCommandChangesOnlyStatus : Prop :=
  ∀ (i : Instr) (s : State), s.busy = false → ¬s.Accepts i →
    ∃ e, (e = .invalidKeyLength ∨ e = .invalidCiphertextLength ∨ e = .lengthOverflow) ∧
      exec i s = .next (s.rejectedWith e)

/-- 60_exceptions.md R133, R134, R135: the checks of each command in order: a command that needs the key is rejected with
INVALID_KEY_LENGTH while a key word is unset, whatever its lengths are; then the length checks, in the table's order. -/
def Obligations.AcceptanceChecksInOrder : Prop :=
  ∀ s : State, s.busy = false →
    (∀ i, needsKey i = true → (s.key0Set = false ∨ s.key1Set = false) →
      exec i s = .next (s.rejectedWith .invalidKeyLength)) ∧
    (Config.nBuf - 1 < s.len.toNat → exec .pad s = .next (s.rejectedWith .lengthOverflow)) ∧
    (Config.nBuf < s.len.toNat → exec .unpad s = .next (s.rejectedWith .lengthOverflow)) ∧
    (s.key0Set = true → s.key1Set = true →
      (Config.nBuf - 1 < s.len.toNat → exec .encrypt s = .next (s.rejectedWith .lengthOverflow)) ∧
      (s.len.toNat = 0 ∨ s.len.toNat % 8 ≠ 0 →
        exec .decrypt s = .next (s.rejectedWith .invalidCiphertextLength) ∧
        exec .verify s = .next (s.rejectedWith .invalidCiphertextLength)) ∧
      (s.len.toNat ≠ 0 → s.len.toNat % 8 = 0 → Config.nBuf < s.len.toNat →
        exec .decrypt s = .next (s.rejectedWith .lengthOverflow) ∧
        exec .verify s = .next (s.rejectedWith .lengthOverflow)) ∧
      (s.len.toNat ≠ 0 → s.len.toNat % 8 = 0 → s.len.toNat ≤ Config.nBuf → Config.nBuf < s.vlen.toNat →
        exec .verify s = .next (s.rejectedWith .lengthOverflow)))

/-- 60_exceptions.md R135, 10_state.md R43: any CMD write while BUSY = 1, valid or not, changes nothing but WDROP. -/
def Obligations.CommandWhileBusyIsDropped : Prop :=
  (∀ (i : Instr) (s : State), s.busy = true → exec i s = .next { s with wdrop := true }) ∧
  ∀ (w : Word) (s : State), s.busy = true → cmdWrite w s = .next { s with wdrop := true }

/-! ### Whole commands -/

/-- 41_key_schedule.md R95: an accepted KEYGEN ends after 17 engine steps with the 16 subkeys of KEYREG in the table,
KEYS_VALID = 1, OUTLEN = 0, BLOCK = 0, the buffers as they were. -/
def Obligations.KeygenCompletes : Prop :=
  ∀ s : State, s.Accepts .keygen →
    ∃ t u, exec .keygen s = .next t ∧ engineRun 17 t = .next u ∧ Finished s u .none 0 0 false ∧ u.keysReady ∧
      u.mbuf = s.mbuf

/-- 43_block_cipher.md R110: an accepted BLOCK_ENC ends after 35 engine steps with MBUF[0, 8) transformed in direction ENC,
MBUF above it as it was, OUTLEN = 8, BLOCK = 1, KEYS_VALID = 1. -/
def Obligations.BlockEncCompletes : Prop :=
  ∀ s : State, s.Accepts .blockEnc →
    ∃ t u, exec .blockEnc s = .next t ∧ engineRun 35 t = .next u ∧ Finished s u .none 8 1 false ∧ u.keysReady ∧
      u.mbuf.readBlock 0 = transform Config.twist (keySchedule s.keyreg) .enc (s.mbuf.readBlock 0) ∧ sameAbove 8 s u

/-- 43_block_cipher.md R111: an accepted BLOCK_DEC, as BLOCK_ENC with direction DEC. -/
def Obligations.BlockDecCompletes : Prop :=
  ∀ s : State, s.Accepts .blockDec →
    ∃ t u, exec .blockDec s = .next t ∧ engineRun 35 t = .next u ∧ Finished s u .none 8 1 false ∧ u.keysReady ∧
      u.mbuf.readBlock 0 = transform Config.twist (keySchedule s.keyreg) .dec (s.mbuf.readBlock 0) ∧ sameAbove 8 s u

/-- 44_cbc_padding.md R125: an accepted PAD ends after 2 engine steps with the padded message in MBUF[0, OUTLEN), MBUF above
it and the subkey table as they were. -/
def Obligations.PadCompletes : Prop :=
  ∀ s : State, s.Accepts .pad →
    ∃ t u, exec .pad s = .next t ∧ engineRun 2 t = .next u ∧
      Finished s u .none (s.len.toNat + padlen s.len.toNat) 0 false ∧
      u.mbuf.bytes 0 (s.len.toNat + padlen s.len.toNat) = padBytes (s.mbuf.bytes 0 s.len.toNat) ∧
      sameAbove (s.len.toNat + padlen s.len.toNat) s u ∧ u.ksv = s.ksv ∧ u.ks = s.ks

/-- 44_cbc_padding.md R126, 60_exceptions.md R136: an accepted UNPAD ends after 2 engine steps with OUTLEN the length of
unpad of MBUF[0, LEN), which then stands in MBUF[0, OUTLEN), or with PAD_UNDERFLOW and OUTLEN = 0 where unpad has none; MBUF
and the subkey table are as they were. -/
def Obligations.UnpadCompletes : Prop :=
  ∀ s : State, s.Accepts .unpad →
    ∃ t u, exec .unpad s = .next t ∧ engineRun 2 t = .next u ∧ u.mbuf = s.mbuf ∧ u.ksv = s.ksv ∧ u.ks = s.ks ∧
      (∀ p, unpadBytes (s.mbuf.bytes 0 s.len.toNat) = some p →
        Finished s u .none p.length 0 false ∧ u.mbuf.bytes 0 p.length = p) ∧
      (unpadBytes (s.mbuf.bytes 0 s.len.toNat) = none → Finished s u .padUnderflow 0 0 false)

/-- 44_cbc_padding.md R127, R117: an accepted ENCRYPT of LEN = n ends after 16 + 1 + 18b + 1 engine steps, b = n/8 + 1, with
cbc_encrypt of MBUF[0, n) under KEYREG in MBUF[0, OUTLEN), MBUF above it as it was, OUTLEN = n + padlen(n), BLOCK = b. -/
def Obligations.EncryptCompletes : Prop :=
  ∀ s : State, s.Accepts .encrypt →
    ∃ t u, exec .encrypt s = .next t ∧
      engineRun (commandSteps .encrypt (s.len.toNat / 8 + 1)) t = .next u ∧
      Finished s u .none (s.len.toNat + padlen s.len.toNat) (s.len.toNat / 8 + 1) false ∧ u.keysReady ∧
      u.mbuf.bytes 0 (s.len.toNat + padlen s.len.toNat) =
        cbcEncrypt Config.twist (s.mbuf.bytes 0 s.len.toNat) s.keyreg ∧
      sameAbove (s.len.toNat + padlen s.len.toNat) s u

/-- 44_cbc_padding.md R128, R118: an accepted DECRYPT of LEN = n ends after 16 + 18b + 2 engine steps, b = n/8, with the
decrypted blocks in MBUF[0, n), MBUF above it as it was, BLOCK = b, and OUTLEN the length of unpad of them, or
PAD_UNDERFLOW and OUTLEN = 0 where unpad has none. -/
def Obligations.DecryptCompletes : Prop :=
  ∀ s : State, s.Accepts .decrypt →
    ∃ t u, exec .decrypt s = .next t ∧ engineRun (commandSteps .decrypt (s.len.toNat / 8)) t = .next u ∧ u.keysReady ∧
      u.mbuf.bytes 0 s.len.toNat = cbcDecryptRaw Config.twist (s.mbuf.bytes 0 s.len.toNat) s.keyreg ∧
      sameAbove s.len.toNat s u ∧
      (∀ p, cbcDecrypt Config.twist (s.mbuf.bytes 0 s.len.toNat) s.keyreg = some p →
        Finished s u .none p.length (s.len.toNat / 8) false) ∧
      (cbcDecrypt Config.twist (s.mbuf.bytes 0 s.len.toNat) s.keyreg = none →
        Finished s u .padUnderflow 0 (s.len.toNat / 8) false)

/-- 44_cbc_padding.md R129: an accepted VERIFY does what DECRYPT does, with one more step, and sets VERIFY_OK exactly when no
error occurred, the decrypted length is VLEN and the bytes match VBUF; with PAD_UNDERFLOW it takes no COMPARE step. -/
def Obligations.VerifyCompletes : Prop :=
  ∀ s : State, s.Accepts .verify →
    ∃ t u, exec .verify s = .next t ∧ u.keysReady ∧
      u.mbuf.bytes 0 s.len.toNat = cbcDecryptRaw Config.twist (s.mbuf.bytes 0 s.len.toNat) s.keyreg ∧
      sameAbove s.len.toNat s u ∧
      (∀ p, cbcDecrypt Config.twist (s.mbuf.bytes 0 s.len.toNat) s.keyreg = some p →
        engineRun (commandSteps .verify (s.len.toNat / 8)) t = .next u ∧
        Finished s u .none p.length (s.len.toNat / 8)
          (decide (p.length = s.vlen.toNat ∧ p = s.vbuf.bytes 0 p.length))) ∧
      (cbcDecrypt Config.twist (s.mbuf.bytes 0 s.len.toNat) s.keyreg = none →
        engineRun (commandSteps .verify (s.len.toNat / 8) - 1) t = .next u ∧
        Finished s u .padUnderflow 0 (s.len.toNat / 8) false)

/-- 70_reset_and_hazards.md R160: every accepted command runs for the table's number of engine steps and no fewer, VERIFY
for one less when UNPAD raises PAD_UNDERFLOW: BUSY = 1 up to then, BUSY = 0 after. R160 calls the counts informative: they are
those of the spec's sequencer (log 1). -/
def Obligations.CommandsFinishInCountedSteps : Prop :=
  ∀ (i : Instr) (s : State), s.Accepts i →
    ∃ t u, exec i s = .next t ∧
      engineRun (commandSteps i (blocksWhile i .finish s.len.toNat)) t = .next u ∧ u.busy = false ∧
      ∀ k, k + (if i = .verify then 1 else 0) < commandSteps i (blocksWhile i .finish s.len.toNat) →
        ∃ v, engineRun k t = .next v ∧ v.busy = true

/-- 44_cbc_padding.md R130 (c), 70_reset_and_hazards.md R155: a command's result is a function of KEYREG, LEN, VLEN, MBUF and
VBUF at its acceptance: two accepting states that agree on these end with the same results. -/
def Obligations.ResultDependsOnOperandsOnly : Prop :=
  ∀ (i : Instr) (s s' t t' : State), s.Accepts i → s'.Accepts i → s'.keyreg = s.keyreg → s'.len = s.len →
    s'.vlen = s.vlen → s'.mbuf = s.mbuf → s'.vbuf = s.vbuf → exec i s = .next t → exec i s' = .next t' →
    ∃ u u', engineRun (commandSteps i (blocksWhile i .finish s.len.toNat)) t = .next u ∧
      engineRun (commandSteps i (blocksWhile i .finish s.len.toNat)) t' = .next u' ∧
      u'.errcode = u.errcode ∧ u'.outlen = u.outlen ∧ u'.verifyOk = u.verifyOk ∧ u'.mbuf = u.mbuf ∧ u'.seq = u.seq ∧
      (needsKey i = true → u'.ks = u.ks)

/-- 44_cbc_padding.md R130 (b): ENCRYPT, then DECRYPT with LEN set to the OUTLEN it left and the same key, gives back every
plaintext of up to N_BUF - 1 bytes, whatever it ends in. -/
def Obligations.EngineRoundTrip : Prop :=
  ∀ s : State, s.Accepts .encrypt →
    ∃ t u t' w, exec .encrypt s = .next t ∧ engineRun (commandSteps .encrypt (s.len.toNat / 8 + 1)) t = .next u ∧
      exec .decrypt { u with len := u.outlen } = .next t' ∧
      engineRun (commandSteps .decrypt (s.len.toNat / 8 + 1)) t' = .next w ∧
      w.errcode = .none ∧ w.outlen = s.len ∧ w.mbuf.bytes 0 s.len.toNat = s.mbuf.bytes 0 s.len.toNat

/-! ### Micro-steps -/

/-- 41_key_schedule.md R93: KEYGEN step r. -/
def Obligations.KeygenMicroStep : Prop :=
  ∀ (s : State) (i : Instr), s.seq.phase = .keygen → s.op = opcode i → needsKey i = true →
    let r := s.seq.round.toNat
    let C := rotl (if r = 0 then substr (permPC1 s.keyreg) 0 28 else s.c) (shiftAmount r)
    let D := rotl (if r = 0 then substr (permPC1 s.keyreg) 28 28 else s.d) (shiftAmount r)
    engineStep s = .next { s with
      c := C, d := D
      ks := s.ks.set s.seq.round.toFin (permPC2 (C ++ D))
      ksv := if r = 15 then true else if r = 0 then false else s.ksv
      seq := if r < 15 then { phase := .keygen, block := 0#16, round := s.seq.round + 1#4 }
        else { phase := (phasesOf i).getD 1 .finish, block := 0#16, round := 0#4 } }

/-- 43_block_cipher.md R108: ROUND step r. -/
def Obligations.RoundMicroStep : Prop :=
  ∀ s : State, s.seq.phase = .round →
    engineStep s = .next { s with
      l := s.r
      r := s.l ^^^ roundF Config.twist s.r (if s.dirn = .enc then s.ks[s.seq.round.toFin] else s.ks[(15#4 - s.seq.round).toFin])
      seq := if s.seq.round.toNat < 15 then { phase := .round, block := s.seq.block, round := s.seq.round + 1#4 }
        else { phase := .store, block := s.seq.block, round := 0#4 } }

/-- 44_cbc_padding.md R119, R120: the LOAD and STORE steps of a block that lies in MBUF. -/
def Obligations.LoadAndStoreMicroSteps : Prop :=
  ∀ s : State, 8 * s.seq.block.toNat + 8 ≤ Config.nBuf →
    (s.seq.phase = .load →
      let blk := s.mbuf.readBlock s.seq.block.toNat
      let IV := if s.seq.block = 0#16 ∧ s.mode ≠ .ecb1 then 0x5555555555555555#64 else s.iv
      let u := permIP (if s.mode = .cbce then blk ^^^ IV else blk)
      engineStep s = .next { s with
        iv := IV, csave := if s.mode = .cbcd then blk else s.csave, l := substr u 0 32, r := substr u 32 32
        seq := { phase := .round, block := s.seq.block, round := 0#4 } }) ∧
    (s.seq.phase = .store →
      let out := permIPInv (s.r ++ s.l)
      engineStep s = .next { s with
        mbuf := s.mbuf.writeBlock s.seq.block.toNat (if s.mode = .cbcd then out ^^^ s.iv else out)
        iv := if s.mode = .ecb1 then s.iv else if s.mode = .cbce then out else s.csave
        seq :=
          if s.seq.block.toNat + 1 < s.nblk.toNat then { phase := .load, block := s.seq.block + 1#16, round := 0#4 }
          else if s.op = opcode .decrypt ∨ s.op = opcode .verify then
            { phase := .unpad, block := s.seq.block, round := 0#4 }
          else { phase := .finish, block := s.seq.block, round := 0#4 } })

/-- 44_cbc_padding.md R121, R122, R123: the PAD, UNPAD and COMPARE steps whose bytes lie in the buffers. `z` is the number of
zero bytes UNPAD finds at the end of MBUF[0, NLEN). -/
def Obligations.PadUnpadCompareMicroSteps : Prop :=
  ∀ s : State,
    (s.seq.phase = .pad → s.nlen.toNat + padlen s.nlen.toNat ≤ Config.nBuf →
      let n := s.nlen.toNat + padlen s.nlen.toNat
      ∃ m : Memory, m.read s.nlen.toNat = 0x80#8 ∧ (∀ a, s.nlen.toNat < a → a < n → m.read a = 0x00#8) ∧
        (∀ a, a < s.nlen.toNat ∨ n ≤ a → m.read a = s.mbuf.read a) ∧
        engineStep s = .next { s with
          mbuf := m, nplen := BitVec.ofNat 32 n, rlen := BitVec.ofNat 32 n
          nblk := if s.op = opcode .encrypt then BitVec.ofNat 16 (n / 8) else 0#16
          seq := { phase := if s.op = opcode .encrypt then .load else .finish, block := 0#16, round := 0#4 } }) ∧
    (s.seq.phase = .unpad → s.nlen.toNat ≤ Config.nBuf →
      ∃ z, z ≤ s.nlen.toNat ∧ (∀ a, s.nlen.toNat - z ≤ a → a < s.nlen.toNat → s.mbuf.read a = 0x00#8) ∧
        (z < s.nlen.toNat → s.mbuf.read (s.nlen.toNat - z - 1) ≠ 0x00#8) ∧
        engineStep s = .next (
          if s.nlen.toNat < z + 1 then
            { s with epend := .padUnderflow, rlen := 0#32, seq := { phase := .finish, block := s.seq.block, round := 0#4 } }
          else
            { s with
              rlen := BitVec.ofNat 32 (s.nlen.toNat - z - 1)
              seq := { phase := if s.op = opcode .verify then .compare else .finish, block := s.seq.block, round := 0#4 } })) ∧
    (s.seq.phase = .compare → s.rlen.toNat ≤ Config.nBuf →
      engineStep s = .next { s with
        vok := decide (s.rlen = s.nvlen ∧ ∀ j, j < s.rlen.toNat → s.mbuf.read j = s.vbuf.read j)
        seq := { phase := .finish, block := s.seq.block, round := 0#4 } })

/-- 44_cbc_padding.md R124: the FINISH step. -/
def Obligations.FinishMicroStep : Prop :=
  ∀ s : State, s.seq.phase = .finish →
    engineStep s = .next { s with
      errcode := s.epend
      outlen := if s.epend = .none then s.rlen else 0#32
      verifyOk := decide (s.op = opcode .verify ∧ s.epend = .none ∧ s.vok = true)
      busy := false, done := true, seq := { phase := .idle, block := s.nblk, round := 0#4 } }

/-! ### The cipher -/

/-- 40_bitvector.md R84: IP⁻¹ undoes IP and IP undoes IP⁻¹. -/
def Obligations.InitialPermutationsAreInverse : Prop :=
  ∀ s : Block, permIPInv (permIP s) = s ∧ permIP (permIPInv s) = s

/-- 40_bitvector.md R76, R77, R78: setBit changes one bit and no other; getBits and concatenateBits repack the bits they are
given from bit 0 on, the rest of the final byte 0. -/
def Obligations.BufferPrimitivesMoveBits : Prop :=
  (∀ (s : List Byte) (i v : Nat), i < 8 * s.length →
    (setBit s i v).length = s.length ∧ getBit (setBit s i v) i = some (v != 0) ∧
      ∀ j, j ≠ i → getBit (setBit s i v) j = getBit s j) ∧
  (∀ (s : List Byte) (start length : Nat), start + length ≤ 8 * s.length →
    ∃ r, getBits s start length = some r ∧ r.length = (length + 7) / 8 ∧
      (∀ j, j < length → getBit r j = getBit s (start + j)) ∧
      ∀ j, length ≤ j → j < 8 * r.length → getBit r j = some false) ∧
  ∀ (a : List Byte) (aLen : Nat) (b : List Byte) (bLen : Nat), aLen ≤ 8 * a.length → bLen ≤ 8 * b.length →
    ∃ r, concatenateBits a aLen b bLen = some r ∧ r.length = (aLen + bLen + 7) / 8 ∧
      (∀ j, j < aLen → getBit r j = getBit a j) ∧ (∀ j, j < bLen → getBit r (aLen + j) = getBit b j) ∧
      ∀ j, aLen + bLen ≤ j → j < 8 * r.length → getBit r j = some false

/-- 40_bitvector.md R79, R80: leftRotation and permutation of a buffer, bit by bit. -/
def Obligations.BufferRotationAndPermutation : Prop :=
  (∀ (s : List Byte) (n k : Nat), 1 ≤ n → n ≤ 8 * s.length →
    ∃ r, leftRotation s n k = some r ∧ r.length = (n + 7) / 8 ∧ ∀ j, j < n → getBit r j = getBit s ((j + k) % n)) ∧
  ∀ (s : List Byte) (T : List Nat), (∀ t ∈ T, 1 ≤ t ∧ t ≤ 8 * s.length) →
    ∃ r, permutation s T = some r ∧ r.length = (T.length + 7) / 8 ∧
      ∀ j, j < T.length → getBit r j = getBit s (T.getD j 0 - 1)

/-- 41_key_schedule.md R92 (a), (b), (c): the rotations of the sixteen rounds bring C and D back; the schedule reads nothing
of the low bit of each key byte; eight bytes 0x01 give subkeys that are all zero. -/
def Obligations.KeyScheduleConsequences : Prop :=
  (∀ K : BitVec 64, halvesAfter K 16 = keyHalves K) ∧
  (∀ K K' : BitVec 64, (∀ j, j < 64 → j % 8 ≠ 7 → strBit K j = strBit K' j) → keySchedule K = keySchedule K') ∧
  keySchedule 0x0101010101010101#64 = Vector.replicate 16 0x000000000000#48

/-- 42_round_function.md R101: for all twist tables: three equal source bits fix the output; every output bit is a source
bit; and the output depends on the other bits only through the selectors. -/
def Obligations.TwistParameterIndependentLaws : Prop :=
  ∀ (tw : TwistTables) (x : BitVec 48),
    (strBit x 5 = false → strBit x 6 = false → strBit x 7 = false → twist tw x = 0x00000000#32) ∧
    (strBit x 5 = true → strBit x 6 = true → strBit x 7 = true → twist tw x = 0xFFFFFFFF#32) ∧
    (∀ j, j < 32 → strBit (twist tw x) j ∈ [strBit x 5, strBit x 6, strBit x 7]) ∧
    ∀ y : BitVec 48, strBit y 5 = strBit x 5 → strBit y 6 = strBit x 6 → strBit y 7 = strBit x 7 →
      (∀ k, twistSel tw y k = twistSel tw x k) → twist tw y = twist tw x

/-- 42_round_function.md R103: the three source bits of the twist in the round function, and, for all twist tables, the round
function where they are equal. -/
def Obligations.RoundFunctionUniformCases : Prop :=
  ∀ (tw : TwistTables) (R : Word) (K : Subkey),
    strBit (permE R ^^^ K) 5 = (strBit R 4 ^^ strBit K 5) ∧ strBit (permE R ^^^ K) 6 = (strBit R 3 ^^ strBit K 6) ∧
    strBit (permE R ^^^ K) 7 = (strBit R 4 ^^ strBit K 7) ∧
    ∀ b : Bool, (strBit R 4 ^^ strBit K 5) = b → (strBit R 3 ^^ strBit K 6) = b → (strBit R 4 ^^ strBit K 7) = b →
      roundF tw R K = if b then 0xFFFFFFFF#32 else 0x00000000#32

/-- 43_block_cipher.md R109: the block transform is its own inverse with the direction turned, for all twist tables, every
subkey table and every block. -/
def Obligations.TransformSelfInverse : Prop :=
  ∀ (tw : TwistTables) (ks : Vector Subkey 16) (b : Block),
    transform tw ks .dec (transform tw ks .enc b) = b ∧ transform tw ks .enc (transform tw ks .dec b) = b

/-! ### Padding and chaining -/

/-- 44_cbc_padding.md R112, R113: 1 to 8 bytes are added, the length becomes a multiple of 8, the first byte added is the
marker and the others are zero. -/
def Obligations.PadAddsMarkerAndZeros : Prop :=
  ∀ m : List Byte,
    padlen m.length = 8 - m.length % 8 ∧ 1 ≤ padlen m.length ∧ padlen m.length ≤ 8 ∧
    (m.length + padlen m.length) % 8 = 0 ∧ padBytes m = m ++ 0x80#8 :: List.replicate (padlen m.length - 1) 0x00#8 ∧
    (padBytes m).length = m.length + padlen m.length

/-- 44_cbc_padding.md R114, R115: unpad drops the trailing zero bytes and the byte before them, whatever it is; it has no
result exactly when every byte is zero, the empty string among them. -/
def Obligations.UnpadDropsZerosAndOneByte : Prop :=
  (∀ b p : List Byte, unpadBytes b = some p ↔ ∃ (m : Byte) (z : Nat), m ≠ 0x00#8 ∧ b = p ++ m :: List.replicate z 0x00#8) ∧
  ∀ b : List Byte, unpadBytes b = none ↔ ∀ x ∈ b, x = 0x00#8

/-- 44_cbc_padding.md R116: unpad undoes pad on every byte string. -/
def Obligations.UnpadUndoesPad : Prop :=
  ∀ m : List Byte, unpadBytes (padBytes m) = some m

/-- 44_cbc_padding.md R117, R130 (a), (b), as functions: the ciphertext has |m| + padlen(|m|) bytes, and decryption under the
same key gives the message back, for all twist tables. -/
def Obligations.CbcRoundTrip : Prop :=
  ∀ (tw : TwistTables) (m : List Byte) (K : BitVec 64),
    (cbcEncrypt tw m K).length = m.length + padlen m.length ∧ cbcDecrypt tw (cbcEncrypt tw m K) K = some m

/-- 44_cbc_padding.md R130 (d): changing ciphertext block j alone changes decrypted block j, changes block j + 1 by exactly
the same bits, and no other. -/
def Obligations.CbcErrorPropagation : Prop :=
  ∀ (tw : TwistTables) (ks : Vector Subkey 16) (iv : Block) (cs : List Block) (j : Nat) (δ : Block),
    j < cs.length → δ ≠ 0#64 →
    (cbcDecBlocks tw ks iv (cs.modify j (· ^^^ δ)))[j]? ≠ (cbcDecBlocks tw ks iv cs)[j]? ∧
    (cbcDecBlocks tw ks iv (cs.modify j (· ^^^ δ)))[j + 1]? = ((cbcDecBlocks tw ks iv cs)[j + 1]?).map (· ^^^ δ) ∧
    ∀ k, k ≠ j → k ≠ j + 1 →
      (cbcDecBlocks tw ks iv (cs.modify j (· ^^^ δ)))[k]? = (cbcDecBlocks tw ks iv cs)[k]?

/-- 44_cbc_padding.md R130 (e): changing plaintext block j alone changes every ciphertext block from j on. -/
def Obligations.PlaintextAvalanche : Prop :=
  ∀ (tw : TwistTables) (ks : Vector Subkey 16) (iv : Block) (ps : List Block) (j : Nat) (b : Block),
    j < ps.length → ps[j]? ≠ some b → ∀ k, j ≤ k → k < ps.length →
      (cbcEncBlocks tw ks iv (ps.set j b))[k]? ≠ (cbcEncBlocks tw ks iv ps)[k]?

/-! ### The host's accesses -/

/-- 10_state.md R14, 20_memory.md R49: the register map, the windows, and the reserved offsets; from 0x4000 on an offset is
outside the block. -/
def Obligations.RegisterMap : Prop :=
  placeOf 0x000 = .caps ∧ placeOf 0x004 = .ctrl ∧ placeOf 0x008 = .cmd ∧ placeOf 0x00C = .status ∧
  placeOf 0x010 = .errcode ∧ placeOf 0x014 = .len ∧ placeOf 0x018 = .outlen ∧ placeOf 0x01C = .vlen ∧
  placeOf 0x020 = .key0 ∧ placeOf 0x024 = .key1 ∧ placeOf 0x028 = .progress ∧
  (∀ off, 0x02C ≤ off → off < 0x100 → placeOf off = .reserved) ∧
  (∀ r : BitVec 4, placeOf (0x100 + 8 * r.toNat) = .subkey r true ∧ placeOf (0x104 + 8 * r.toNat) = .subkey r false) ∧
  (∀ off, 0x180 ≤ off → off < 0x1000 → placeOf off = .reserved) ∧
  (∀ a, a < 0x1000 →
    placeOf (0x1000 + a) = (if a < Config.nBuf then .mbuf a else .reserved) ∧
    placeOf (0x2000 + a) = (if a < Config.nBuf then .vbuf a else .reserved)) ∧
  (∀ off, 0x3000 ≤ off → off < 0x4000 → placeOf off = .reserved) ∧
  ∀ off, 0x4000 ≤ off → placeOf off = .outside

/-- 10_state.md R14, R16, R17, R18, R27, R29, R30: what host writes of words do while BUSY = 0: CMD hands the word to the
command decoder (what that does: ValidCommandWords, AcceptedCommandStarts, RejectedCommandChangesOnlyStatus,
AcceptanceChecksInOrder); buffer words: BufferWindows. -/
def Obligations.HostWritesWhileIdle : Prop :=
  ∀ (s : State) (v : Word), s.busy = false →
    (∀ i, decode v = .ok i → writePlace .cmd v s = exec i s) ∧
    ((¬∃ i, decode v = .ok i) → writePlace .cmd v s = .next (s.rejectedWith .badCommand)) ∧
    writePlace .ctrl v s = .next { s with ie := v.getLsbD 0 } ∧
    writePlace .status v s = .next { s with
      done := if v.getLsbD 1 then false else s.done, wdrop := if v.getLsbD 5 then false else s.wdrop } ∧
    writePlace .len v s = .next { s with len := v } ∧
    writePlace .vlen v s = .next { s with vlen := v } ∧
    writePlace .key0 v s = .next { s with keyreg := v ++ s.keyreg.extractLsb' 0 32, key0Set := true, ksv := false } ∧
    writePlace .key1 v s = .next { s with keyreg := s.keyreg.extractLsb' 32 32 ++ v, key1Set := true, ksv := false } ∧
    writePlace .caps v s = .next s ∧ writePlace .errcode v s = .next s ∧ writePlace .outlen v s = .next s ∧
    writePlace .progress v s = .next s ∧ writePlace .reserved v s = .next s ∧
    ∀ r first, writePlace (.subkey r first) v s = .next s

/-- 10_state.md R43: while BUSY = 1, writes to CMD, LEN, VLEN, KEY0, KEY1 and buffer words change nothing but WDROP; CTRL and
STATUS writes are performed; writes to reserved and read-only offsets have no effect. -/
def Obligations.HostWritesWhileBusy : Prop :=
  ∀ (s : State) (v : Word), s.busy = true →
    (∀ p, p = .cmd ∨ p = .len ∨ p = .vlen ∨ p = .key0 ∨ p = .key1 ∨ (∃ a, p = .mbuf a ∨ p = .vbuf a) →
      writePlace p v s = .next { s with wdrop := true }) ∧
    writePlace .ctrl v s = .next { s with ie := v.getLsbD 0 } ∧
    writePlace .status v s = .next { s with
      done := if v.getLsbD 1 then false else s.done, wdrop := if v.getLsbD 5 then false else s.wdrop } ∧
    ∀ p, p = .caps ∨ p = .errcode ∨ p = .outlen ∨ p = .progress ∨ p = .reserved ∨ (∃ r f, p = .subkey r f) →
      writePlace p v s = .next s

/-- 10_state.md R14, R15 to R17, R21, R26 to R33, R42, 20_memory.md R56: what each read returns, and that it changes nothing
of the engine. While BUSY = 1 an MBUF or SUBKEY word is a free value, drawn anew for each read, and so is a word outside the
block at any time (the model's choice, log 21). -/
def Obligations.HostReads : Prop :=
  ∀ s : State,
    readPlace .caps s = { s with replies := BitVec.ofNat 32 Config.nBuf :: s.replies } ∧
    readPlace .ctrl s = { s with replies := (if s.ie then 1#32 else 0#32) :: s.replies } ∧
    readPlace .status s = { s with replies := s.statusWord :: s.replies } ∧
    readPlace .errcode s = { s with replies := s.errcode.bits.zeroExtend 32 :: s.replies } ∧
    readPlace .len s = { s with replies := s.len :: s.replies } ∧
    readPlace .outlen s = { s with replies := s.outlen :: s.replies } ∧
    readPlace .vlen s = { s with replies := s.vlen :: s.replies } ∧
    (∀ p, p = .cmd ∨ p = .key0 ∨ p = .key1 ∨ p = .reserved → readPlace p s = { s with replies := 0#32 :: s.replies }) ∧
    readPlace .outside s = { s with replies := Config.outsideRead s.draws :: s.replies, draws := s.draws + 1 } ∧
    readPlace .progress s = { s with
      replies := (s.seq.block ++ 0#8 ++ s.seq.phase.bits ++ s.seq.round) :: s.replies } ∧
    (∀ a, readPlace (.vbuf a) s = { s with replies := s.vbuf.readBytes a 4 :: s.replies }) ∧
    (s.busy = false →
      (∀ a, readPlace (.mbuf a) s = { s with replies := s.mbuf.readBytes a 4 :: s.replies }) ∧
      ∀ r first, readPlace (.subkey r first) s = { s with
        replies := (if s.ksv = false then 0#32 else if first then substr s.ks[r.toFin] 0 32
          else substr s.ks[r.toFin] 32 16 ++ 0#16) :: s.replies }) ∧
    (s.busy = true → ∀ p, (∃ a, p = .mbuf a) ∨ (∃ r first, p = .subkey r first) →
      readPlace p s = { s with replies := Config.busyRead s.draws :: s.replies, draws := s.draws + 1 })

/-- 10_state.md R15, R18, R21, 00_scope.md R6: the bits of STATUS; ERR is ERRCODE != 0; the bits 31 to 8 read 0; CAPS reads
N_BUF, a multiple of 8 from 16 to 4096. -/
def Obligations.CapsAndStatusWords : Prop :=
  (capsWord.toNat = Config.nBuf ∧ Config.nBuf % 8 = 0 ∧ 16 ≤ Config.nBuf ∧ Config.nBuf ≤ 4096) ∧
  ∀ s : State,
    s.statusWord.getLsbD 0 = s.busy ∧ s.statusWord.getLsbD 1 = s.done ∧
    s.statusWord.getLsbD 2 = decide (s.errcode ≠ .none) ∧ s.statusWord.getLsbD 3 = s.verifyOk ∧
    s.statusWord.getLsbD 4 = s.ksv ∧ s.statusWord.getLsbD 5 = s.wdrop ∧ s.statusWord.getLsbD 6 = s.key0Set ∧
    s.statusWord.getLsbD 7 = s.key1Set ∧ ∀ j, 8 ≤ j → s.statusWord.getLsbD j = false

/-- 20_memory.md R47, R49, R50: while BUSY = 0 a host write of a window word below N_BUF stores its four bytes, the highest
lane at the lowest index, and changes no other byte and nothing else; a host read returns the four bytes in that order. -/
def Obligations.BufferWindows : Prop :=
  ∀ (s : State) (w : Nat) (v : Word), s.busy = false → 4 * w < Config.nBuf →
    (∃ m : Memory, writePlace (placeOf (0x1000 + 4 * w)) v s = .next { s with mbuf := m } ∧
      m.read (4 * w) = v.extractLsb' 24 8 ∧ m.read (4 * w + 1) = v.extractLsb' 16 8 ∧
      m.read (4 * w + 2) = v.extractLsb' 8 8 ∧ m.read (4 * w + 3) = v.extractLsb' 0 8 ∧
      ∀ a, a < 4 * w ∨ 4 * w + 4 ≤ a → m.read a = s.mbuf.read a) ∧
    (∃ m : Memory, writePlace (placeOf (0x2000 + 4 * w)) v s = .next { s with vbuf := m } ∧
      m.read (4 * w) = v.extractLsb' 24 8 ∧ m.read (4 * w + 1) = v.extractLsb' 16 8 ∧
      m.read (4 * w + 2) = v.extractLsb' 8 8 ∧ m.read (4 * w + 3) = v.extractLsb' 0 8 ∧
      ∀ a, a < 4 * w ∨ 4 * w + 4 ≤ a → m.read a = s.vbuf.read a) ∧
    readPlace (placeOf (0x1000 + 4 * w)) s = { s with
      replies := (s.mbuf.read (4 * w) ++ s.mbuf.read (4 * w + 1) ++ s.mbuf.read (4 * w + 2) ++
        s.mbuf.read (4 * w + 3)) :: s.replies } ∧
    readPlace (placeOf (0x2000 + 4 * w)) s = { s with
      replies := (s.vbuf.read (4 * w) ++ s.vbuf.read (4 * w + 1) ++ s.vbuf.read (4 * w + 2) ++
        s.vbuf.read (4 * w + 3)) :: s.replies }

/-- 20_memory.md R55: a host access of the register block, a write, read or poll, of another width than 32 bits, or at
an offset that is no multiple of 4, is refused; every other access has a next state; and a step of the machine is
refused for nothing else. -/
def Obligations.OnlyAlignedWordsHaveMeaning : Prop :=
  (∀ (s : State) (off : Nat) (v : Word) (w : Width), off < 0x4000 → w ≠ .word ∨ off % 4 ≠ 0 →
    (∃ q, hostAccess (.write w off v) s = .refused q) ∧ ∃ q, hostAccess (.read w off) s = .refused q) ∧
  (∀ (s : State) (off : Nat) (mask val : Word), off < 0x4000 → off % 4 ≠ 0 →
    ∃ q, hostAccess (.poll off mask val) s = .refused q) ∧
  (∀ (s : State) (off : Nat) (v mask : Word), off < 0x4000 → off % 4 = 0 →
    (∃ t, hostAccess (.write .word off v) s = .next t) ∧ (∃ t, hostAccess (.read .word off) s = .next t) ∧
      ∃ t, hostAccess (.poll off mask v) s = .next t) ∧
  ∀ (s : State) (q : Refusal), step s = .refused q → q = .subWordAccess ∨ q = .unalignedAccess

/-- 30_encoding.md R72: a poll does what a read of its offset does; it is over when the word read matches under the mask, and
stands next in the host's list again when it does not. -/
def Obligations.PollReadsUntilMatch : Prop :=
  ∀ (s t : State) (off : Nat) (mask val : Word) (rest : List HostOp), s.prog = .poll off mask val :: rest →
    hostStep { s with prog := .read .word off :: rest } = .next t →
    ∃ v, t.replies = v :: s.replies ∧ t.prog = rest ∧
      hostStep s = .next { t with prog := if v &&& mask = val then rest else .poll off mask val :: rest }

/-- 60_exceptions.md R140, R141, 10_state.md R20: IRQ is DONE and IE; writing IE or acknowledging DONE moves it; FINISH and a
rejection (of an illegal word, by the key check or by a length check) raise it when enabled; the acceptance of a command, which
clears DONE, and reset deassert it. -/
def Obligations.InterruptLevel : Prop :=
  (∀ s : State, s.irq = (s.done && s.ie)) ∧
  (∀ (s t : State) (v : Word), writePlace .ctrl v s = .next t → t.irq = (s.done && v.getLsbD 0)) ∧
  (∀ (s t : State) (v : Word), writePlace .status v s = .next t → t.irq = (s.irq && !v.getLsbD 1)) ∧
  (∀ s t : State, s.seq.phase = .finish → engineStep s = .next t → t.irq = s.ie) ∧
  (∀ (w : Word) (s : State), (¬∃ i, decode w = .ok i) → s.busy = false → ∃ t, cmdWrite w s = .next t ∧ t.irq = s.ie) ∧
  (∀ (i : Instr) (s : State), s.busy = false → ¬s.Accepts i → ∃ t, exec i s = .next t ∧ t.irq = s.ie) ∧
  (∀ (i : Instr) (s : State), s.Accepts i → ∃ t, exec i s = .next t ∧ t.irq = false) ∧
  State.reset.irq = false ∧ ∀ s : State, s.resetEvent.irq = false

/-! ### Whole-machine rules -/

/-- 10_state.md R25: KEY0_SET and KEY1_SET are cleared only by reset. -/
def Obligations.KeyFlagsClearedOnlyByReset : Prop :=
  ∀ s t : State, step s = .next t →
    ((s.key0Set = true ∧ t.key0Set = false) ∨ (s.key1Set = true ∧ t.key1Set = false)) → ∃ sch, s.sched = .reset :: sch

/-- 10_state.md R24: WDROP goes from 1 to 0 only by a reset or by the host's writing 1 to STATUS bit 5; no command clears
it. -/
def Obligations.WdropClearedOnlyByHost : Prop :=
  ∀ s t : State, step s = .next t → s.wdrop = true → t.wdrop = false →
    (∃ sch, s.sched = .reset :: sch) ∨
    ((s.sched.head? = some .host ∨ (s.sched = [] ∧ s.busy = false)) ∧
      ∃ v rest, s.prog = .write .word 0x00C v :: rest ∧ v.getLsbD 5 = true)

/-- 10_state.md R27, R29, R30, R34, 20_memory.md R53: no micro-step of the engine writes CTRL, WDROP, the key or its flags,
LEN, VLEN or VBUF, nor the host's side of the bus. -/
def Obligations.EngineLeavesHostRegisters : Prop :=
  ∀ s t : State, engineStep s = .next t →
    t.ie = s.ie ∧ t.wdrop = s.wdrop ∧ t.key0Set = s.key0Set ∧ t.key1Set = s.key1Set ∧ t.keyreg = s.keyreg ∧
    t.len = s.len ∧ t.vlen = s.vlen ∧ t.vbuf = s.vbuf ∧ t.draws = s.draws ∧ t.prog = s.prog ∧ t.sched = s.sched ∧
    t.replies = s.replies

/-- 10_state.md R43, 70_reset_and_hazards.md R155, R159: no turn of the host changes what a running command is computed
from, and the engine's next micro-step does the same before and after it. -/
def Obligations.HostTurnKeepsRunningCommand : Prop :=
  ∀ s t : State, s.busy = true → hostStep s = .next t → s.SameCommand t ∧
    ∀ u, engineStep s = .next u → ∃ v, engineStep t = .next v ∧ u.SameCommand v

/-- 20_memory.md R60, R63, 70_reset_and_hazards.md R155, R159: however host turns are put among the engine's micro-steps
while a command runs, the command stands where the engine's micro-steps alone bring it, as long as it runs (for the FINISH step
that ends it: HostTurnKeepsRunningCommand). -/
def Obligations.HostCannotDisturbRunningCommand : Prop :=
  ∀ (turns : List Turn) (s t u : State), Turn.reset ∉ turns → s.busy = true → interleave turns s = .next t →
    engineRun (turns.count .engine) s = .next u → u.busy = true → u.SameCommand t

/-- 60_exceptions.md R150: EMPTY_INPUT is never raised: no step brings it into ERRCODE or EPEND. -/
def Obligations.EmptyInputNeverRaised : Prop :=
  ∀ s t : State, step s = .next t → s.errcode ≠ .emptyInput → s.epend ≠ .emptyInput →
    t.errcode ≠ .emptyInput ∧ t.epend ≠ .emptyInput

/-! ### Reset and invariants -/

/-- 10_state.md R41, 70_reset_and_hazards.md R151: the values the spec gives for reset, at State.reset and after a reset
event in any state, a running command among them (R152: no DONE, no IRQ); the registers the spec gives no value are not
named. -/
def Obligations.ResetValues : Prop :=
  ∀ t : State, (t = State.reset ∨ ∃ s sch, s.sched = .reset :: sch ∧ step s = .next t) →
    t.ie = false ∧ t.busy = false ∧ t.done = false ∧ t.verifyOk = false ∧ t.ksv = false ∧ t.wdrop = false ∧
    t.key0Set = false ∧ t.key1Set = false ∧ t.errcode = .none ∧ t.len = 0#32 ∧ t.outlen = 0#32 ∧ t.vlen = 0#32 ∧
    t.seq = { phase := .idle, block := 0#16, round := 0#4 } ∧ t.epend = .none ∧ t.irq = false ∧
    t.ctrlWord = 0#32 ∧ t.statusWord = 0#32 ∧ t.errcodeWord = 0#32 ∧ t.progressWord = 0#32 ∧
    t.mbuf.cells = [] ∧ t.vbuf.cells = []

/-- The invariants hold at reset. -/
def Obligations.ResetMeetsInvariants : Prop :=
  State.reset.Inv ∧ State.reset.KeysInv

/-- 10_state.md R19, R31, R39, 20_memory.md R52, R53, 60_exceptions.md R134: every step keeps the invariant of runs, from
every state that meets it. -/
def Obligations.StepKeepsInvariant : Prop :=
  ∀ s t : State, s.Inv → step s = .next t → t.Inv

/-- 10_state.md R23, 41_key_schedule.md R93, R94: every step keeps the invariant of the subkey table: while KEYS_VALID = 1 it
is the schedule of KEYREG. -/
def Obligations.StepKeepsSubkeyTable : Prop :=
  ∀ s t : State, s.Inv → s.KeysInv → step s = .next t → t.KeysInv

/-- 60_exceptions.md R132, R134, 20_memory.md R52, R53: in a state that meets the invariant no step faults: every engine
access lies in the buffers, and the engine never gets stuck. -/
def Obligations.StepNeverFaults : Prop :=
  ∀ (s : State) (f : Fault), s.Inv → step s ≠ .fault f

/-- The buffers' form (log 6): two contents in canonical form that read the same at every address, of one buffer since one
reset, are equal data. -/
def Obligations.CanonicalFormIsUnique : Prop :=
  ∀ m m' : Memory, m.wf = true → m'.wf = true → m'.buf = m.buf → m'.epoch = m.epoch → (∀ a, m'.read a = m.read a) → m' = m
end

