-- ==== Sys2Proof/Laws/Bits.lean ====
section
/-!
SUPPORT. Bit strings: two strings are equal when their bits are, and the bits of what each primitive makes.
-/

namespace Sys2Proof.Machine.Laws

@[simp] theorem strBit_bitsOf (n : Nat) (f : Nat → Bool) (i : Nat) :
    strBit (bitsOf n f) i = (decide (i < n) && f i) := by
  induction n with
  | zero => simp [strBit, bitsOf]
  | succ n ih =>
    have h : strBit (bitsOf (n + 1) f) i = if i < n then strBit (bitsOf n f) i else decide (i = n) && f n := by
      simp [strBit, bitsOf, BitVec.getMsbD_concat]
    rw [h, ih]
    rcases Nat.lt_trichotomy i n with hi | rfl | hi
    · have h1 : i < n + 1 := by omega
      simp [hi, h1]
    · simp
    · have h1 : ¬i < n := by omega
      have h2 : ¬i = n := by omega
      have h3 : ¬i < n + 1 := by omega
      simp [h1, h2, h3]

theorem strBit_of_ge {n : Nat} (s : BitVec n) {i : Nat} (h : n ≤ i) : strBit s i = false :=
  BitVec.getMsbD_of_ge s i h

/-- Two strings with the same bits are equal. -/
theorem str_ext {n : Nat} {s t : BitVec n} (h : ∀ i, i < n → strBit s i = strBit t i) : s = t :=
  BitVec.eq_of_getMsbD_eq h

/-- A string is what its bits make. -/
theorem bitsOf_strBit {n : Nat} (s : BitVec n) : bitsOf n (strBit s) = s :=
  str_ext fun i hi => by simp [hi]

theorem bitsOf_congr {n : Nat} {f g : Nat → Bool} (h : ∀ i, i < n → f i = g i) : bitsOf n f = bitsOf n g :=
  str_ext fun i hi => by simp [h i hi]

@[simp] theorem strBit_substr {n : Nat} (s : BitVec n) (a len i : Nat) :
    strBit (substr s a len) i = (decide (i < len) && strBit s (a + i)) := strBit_bitsOf _ _ _

@[simp] theorem strBit_perm {n : Nat} (m : Nat) (T : List Nat) (s : BitVec n) (i : Nat) :
    strBit (perm m T s) i = (decide (i < m) && strBit s (T.getD i 0 - 1)) := strBit_bitsOf _ _ _

@[simp] theorem strBit_rotl {n : Nat} (s : BitVec n) (k i : Nat) :
    strBit (rotl s k) i = (decide (i < n) && strBit s ((i + k) % n)) := strBit_bitsOf _ _ _

@[simp] theorem strBit_append {n m : Nat} (s : BitVec n) (t : BitVec m) (i : Nat) :
    strBit (s ++ t) i = if n ≤ i then strBit t (i - n) else strBit s i := BitVec.getMsbD_append

/-- The two halves of a block, at the block's width. -/
@[simp] theorem strBit_halves (a b : Word) (i : Nat) :
    strBit (n := 64) (a ++ b) i = if 32 ≤ i then strBit b (i - 32) else strBit a i := strBit_append a b i

/-- `C ‖ D`, at its width of 56 bits. -/
@[simp] theorem strBit_keyHalves (a b : BitVec 28) (i : Nat) :
    strBit (n := 56) (a ++ b) i = if 28 ≤ i then strBit b (i - 28) else strBit a i := strBit_append a b i

@[simp] theorem strBit_xor {n : Nat} (s t : BitVec n) (i : Nat) :
    strBit (s ^^^ t) i = (strBit s i ^^ strBit t i) := BitVec.getMsbD_xor

/-- A string is its first half followed by its second. -/
theorem substr_append (s : Block) : substr s 0 32 ++ substr s 32 32 = s := by
  refine str_ext fun i hi => ?_
  by_cases h : 32 ≤ i
  · have h1 : i - 32 < 32 := by omega
    have h2 : 32 + (i - 32) = i := by omega
    simp [h, h1, h2]
  · have h1 : i < 32 := by omega
    simp [h, h1]

theorem substr_append_left (a b : Word) : substr (a ++ b) 0 32 = a := by
  refine str_ext fun i hi => ?_
  have h : ¬32 ≤ i := by omega
  simp [hi, h]

theorem substr_append_right (a b : Word) : substr (a ++ b) 32 32 = b := by
  refine str_ext fun i hi => ?_
  simp [hi]

/-- Every entry of every table is a position of its source (40_bitvector.md R83 to R88), and each has as many entries as
its result has bits. -/
theorem tables_in_range :
    (tableIP.length = 64 ∧ ∀ t ∈ tableIP, 1 ≤ t ∧ t ≤ 64) ∧ (tableIPInv.length = 64 ∧ ∀ t ∈ tableIPInv, 1 ≤ t ∧ t ≤ 64) ∧
    (tableE.length = 48 ∧ ∀ t ∈ tableE, 1 ≤ t ∧ t ≤ 32) ∧ (tableP.length = 32 ∧ ∀ t ∈ tableP, 1 ≤ t ∧ t ≤ 32) ∧
    (tablePC1.length = 56 ∧ ∀ t ∈ tablePC1, 1 ≤ t ∧ t ≤ 64) ∧ (tablePC2.length = 48 ∧ ∀ t ∈ tablePC2, 1 ≤ t ∧ t ≤ 56) := by
  decide

/-- One round undone: the halves before it, from the halves after it (43_block_cipher.md R109). -/
theorem feistelRound_undo (tw : TwistTables) (k : Subkey) (lr : Word × Word) :
    ((feistelRound tw k lr).2 ^^^ roundF tw (feistelRound tw k lr).1 k, (feistelRound tw k lr).1) = lr := by
  simp [feistelRound]

/-- Every output bit of the twist is one of the three source bits (42_round_function.md R100). -/
theorem strBit_twist (tw : TwistTables) (x : BitVec 48) (j : Nat) (h : j < 32) :
    strBit (twist tw x) j = strBit x 5 ∨ strBit (twist tw x) j = strBit x 6 ∨ strBit (twist tw x) j = strBit x 7 := by
  have hb : strBit (twist tw x) j = strBit x (srcIndex
      (if j % 2 = 0 then (twistPair tw x (Fin.ofNat 16 (j / 2))).1 else (twistPair tw x (Fin.ofNat 16 (j / 2))).2)) := by
    simp [twist, h]
  rw [hb]
  cases (if j % 2 = 0 then (twistPair tw x (Fin.ofNat 16 (j / 2))).1 else (twistPair tw x (Fin.ofNat 16 (j / 2))).2) <;>
    simp [srcIndex]

end Sys2Proof.Machine.Laws
end

