-- ==== Sys2Proof/Laws/Memory.lean ====
section
/-!
SUPPORT. The buffers: reading after writing, and that every operation keeps the canonical form.
-/

namespace Sys2Proof.Machine.Laws

/-! ### Cell lists -/

theorem lookupCell_insertCell (cells : List Host.Cell) (x : Nat) (v : Byte) (y : Nat) :
    lookupCell (insertCell cells x v) y = if x = y then some v else lookupCell cells y := by
  induction cells with
  | nil => simp [insertCell, lookupCell]
  | cons p rest ih =>
    obtain ⟨a, b⟩ := p
    by_cases h1 : x < a
    · simp [insertCell, h1, lookupCell]
    · by_cases h2 : x = a
      · subst h2
        by_cases hy : x = y <;> simp [insertCell, lookupCell, hy]
      · by_cases ha : a = y
        · subst ha
          simp [insertCell, h1, h2, lookupCell]
        · simp [insertCell, h1, h2, lookupCell, ha, ih]

theorem lookupCell_eraseCell (cells : List Host.Cell) (x y : Nat) :
    lookupCell (eraseCell cells x) y = if x = y then none else lookupCell cells y := by
  induction cells with
  | nil => simp [eraseCell, lookupCell]
  | cons p rest ih =>
    obtain ⟨a, b⟩ := p
    simp only [eraseCell, List.filter_cons] at ih ⊢
    by_cases h : a = x
    · subst h
      by_cases h2 : a = y <;> simp_all [lookupCell]
    · by_cases h2 : a = y
      · subst h2
        simp [lookupCell, h, Ne.symm h]
      · simp [lookupCell, h, h2, ih]

/-- Inserting adds no address but its own. -/
theorem mem_insertCell {cells : List Host.Cell} {x : Nat} {v : Byte} {p : Host.Cell}
    (h : p ∈ insertCell cells x v) : p = (x, v) ∨ p ∈ cells := by
  induction cells with
  | nil => simpa [insertCell] using h
  | cons q rest ih =>
    obtain ⟨a, b⟩ := q
    simp only [insertCell] at h
    split_ifs at h <;> simp only [List.mem_cons] at h ⊢
    · tauto
    · tauto
    · rcases h with h | h
      · tauto
      · rcases ih h with h | h <;> tauto

theorem insertCell_sorted {cells : List Host.Cell} {x : Nat} {v : Byte}
    (h : cells.Pairwise fun p q => p.1 < q.1) : (insertCell cells x v).Pairwise fun p q => p.1 < q.1 := by
  induction cells with
  | nil => simp [insertCell]
  | cons q rest ih =>
    obtain ⟨a, b⟩ := q
    rw [List.pairwise_cons] at h
    simp only [insertCell]
    split_ifs with h1 h2
    · refine List.pairwise_cons.2 ⟨?_, List.pairwise_cons.2 h⟩
      intro p hp
      rcases List.mem_cons.1 hp with rfl | hp
      · exact h1
      · exact lt_trans h1 (h.1 p hp)
    · subst h2
      exact List.pairwise_cons.2 h
    · refine List.pairwise_cons.2 ⟨?_, ih h.2⟩
      intro p hp
      rcases mem_insertCell hp with rfl | hp
      · show a < x
        omega
      · exact h.1 p hp

theorem lookupCell_of_mem {cells : List Host.Cell} (h : cells.Pairwise fun p q => p.1 < q.1) {p : Host.Cell}
    (hp : p ∈ cells) : lookupCell cells p.1 = some p.2 := by
  induction cells with
  | nil => simp at hp
  | cons q rest ih =>
    rw [List.pairwise_cons] at h
    rcases List.mem_cons.1 hp with rfl | hp
    · simp [lookupCell]
    · have hlt := h.1 p hp
      have : q.1 ≠ p.1 := by omega
      simp [lookupCell, this, ih h.2 hp]

theorem mem_of_lookupCell {cells : List Host.Cell} {x : Nat} {v : Byte} (h : lookupCell cells x = some v) :
    (x, v) ∈ cells := by
  induction cells with
  | nil => simp [lookupCell] at h
  | cons q rest ih =>
    obtain ⟨a, b⟩ := q
    simp only [lookupCell] at h
    split_ifs at h with h1
    · simp_all
    · exact List.mem_cons_of_mem _ (ih h)

/-! ### The canonical form -/

theorem wf_iff {m : Memory} :
    m.wf ↔ (m.cells.Pairwise fun p q => p.1 < q.1) ∧ ∀ p ∈ m.cells, p.2 ≠ m.unlisted p.1 := by
  simp [Memory.wf]

theorem inRange_iff {m : Memory} : m.inRange ↔ ∀ p ∈ m.cells, p.1 < Config.nBuf := by
  simp [Memory.inRange]

/-! ### One byte -/

@[simp] theorem write_buf (m : Memory) (a : Nat) (v : Byte) : (m.write a v).buf = m.buf := rfl
@[simp] theorem write_epoch (m : Memory) (a : Nat) (v : Byte) : (m.write a v).epoch = m.epoch := rfl
@[simp] theorem write_unlisted (m : Memory) (a : Nat) (v : Byte) (x : Nat) :
    (m.write a v).unlisted x = m.unlisted x := rfl

/-- A read after a write: the byte written at its own address, the old byte at every other. -/
theorem read_write (m : Memory) (a : Nat) (v : Byte) (x : Nat) :
    (m.write a v).read x = if a = x then v else m.read x := by
  unfold Memory.read
  by_cases h : v = m.unlisted a
  · have : (m.write a v).cells = eraseCell m.cells a := by simp [Memory.write, h]
    rw [this, lookupCell_eraseCell]
    by_cases hx : a = x
    · subst hx
      simp [h]
    · simp [hx]
  · have : (m.write a v).cells = insertCell m.cells a v := by simp [Memory.write, h]
    rw [this, lookupCell_insertCell]
    by_cases hx : a = x <;> simp [hx]

@[simp] theorem read_write_same (m : Memory) (a : Nat) (v : Byte) : (m.write a v).read a = v := by
  simp [read_write]

theorem read_write_other {m : Memory} {a x : Nat} {v : Byte} (h : a ≠ x) : (m.write a v).read x = m.read x := by
  simp [read_write, h]

/-- A write keeps the canonical form. -/
theorem write_wf {m : Memory} (h : m.wf) (a : Nat) (v : Byte) : (m.write a v).wf := by
  rw [wf_iff] at h ⊢
  by_cases hv : v = m.unlisted a
  · have hc : (m.write a v).cells = eraseCell m.cells a := by simp [Memory.write, hv]
    refine ⟨?_, ?_⟩
    · rw [hc]
      exact h.1.filter _
    · intro p hp
      rw [hc] at hp
      exact h.2 p (List.mem_filter.1 hp).1
  · have hc : (m.write a v).cells = insertCell m.cells a v := by simp [Memory.write, hv]
    refine ⟨?_, ?_⟩
    · rw [hc]
      exact insertCell_sorted h.1
    · intro p hp
      rw [hc] at hp
      rcases mem_insertCell hp with rfl | hp
      · exact hv
      · exact h.2 p hp

/-- A write below N_BUF lists nothing at or above it. -/
theorem write_inRange {m : Memory} (h : m.inRange) {a : Nat} (ha : a < Config.nBuf) (v : Byte) :
    (m.write a v).inRange := by
  rw [inRange_iff] at h ⊢
  intro p hp
  by_cases hv : v = m.unlisted a
  · have hc : (m.write a v).cells = eraseCell m.cells a := by simp [Memory.write, hv]
    rw [hc] at hp
    exact h p (List.mem_filter.1 hp).1
  · have hc : (m.write a v).cells = insertCell m.cells a v := by simp [Memory.write, hv]
    rw [hc] at hp
    rcases mem_insertCell hp with rfl | hp
    · exact ha
    · exact h p hp

/-! ### Byte ranges -/

/-- What a store of a list of bytes leaves. -/
theorem read_writeList (m : Memory) (off : Nat) (bs : List Byte) (x : Nat) :
    (m.writeList off bs).read x =
      if off ≤ x ∧ x < off + bs.length then bs.getD (x - off) 0#8 else m.read x := by
  induction bs generalizing m off with
  | nil =>
    have : ¬(off ≤ x ∧ x < off + ([] : List Byte).length) := by simp
    rw [if_neg this]
    rfl
  | cons b bs ih =>
    simp only [Memory.writeList, ih, read_write, List.length_cons]
    by_cases h1 : off = x
    · subst h1
      simp
    · by_cases h2 : off + 1 ≤ x ∧ x < off + 1 + bs.length
      · have h3 : off ≤ x ∧ x < off + (bs.length + 1) := by omega
        have h4 : x - off = (x - (off + 1)) + 1 := by omega
        rw [if_pos h2, if_pos h3, h4]
        simp
      · have h3 : ¬(off ≤ x ∧ x < off + (bs.length + 1)) := by omega
        rw [if_neg h2, if_neg h3, if_neg h1]

theorem writeList_wf {m : Memory} (h : m.wf) (off : Nat) (bs : List Byte) : (m.writeList off bs).wf := by
  induction bs generalizing m off with
  | nil => exact h
  | cons b bs ih => exact ih (write_wf h off b) (off + 1)

theorem writeList_inRange {m : Memory} (h : m.inRange) {off : Nat} {bs : List Byte}
    (hn : off + bs.length ≤ Config.nBuf) : (m.writeList off bs).inRange := by
  induction bs generalizing m off with
  | nil => exact h
  | cons b bs ih =>
    simp only [List.length_cons] at hn
    exact ih (write_inRange h (by omega) b) (by omega)

theorem writeBytes_wf {m : Memory} (h : m.wf) (off : Nat) (n : Nat) (v : BitVec (8 * n)) :
    (m.writeBytes off n v).wf := by
  induction n with
  | zero => exact h
  | succ n ih => exact write_wf (ih _) _ _

theorem writeBytes_inRange {m : Memory} (h : m.inRange) (off : Nat) (n : Nat) (v : BitVec (8 * n))
    (hn : off + n ≤ Config.nBuf) : (m.writeBytes off n v).inRange := by
  induction n with
  | zero => exact h
  | succ n ih => exact write_inRange (ih _ (by omega)) (by omega) _

@[simp] theorem writeBytes_buf (m : Memory) (off n : Nat) (v : BitVec (8 * n)) :
    (m.writeBytes off n v).buf = m.buf := by
  induction n with
  | zero => rfl
  | succ n ih => exact ih _

@[simp] theorem writeBytes_epoch (m : Memory) (off n : Nat) (v : BitVec (8 * n)) :
    (m.writeBytes off n v).epoch = m.epoch := by
  induction n with
  | zero => rfl
  | succ n ih => exact ih _

/-- MemWrite leaves every byte outside its range (20_memory.md R53). -/
theorem read_writeBytes_outside (m : Memory) (off n : Nat) (v : BitVec (8 * n)) (x : Nat)
    (h : x < off ∨ off + n ≤ x) : (m.writeBytes off n v).read x = m.read x := by
  induction n with
  | zero => rfl
  | succ n ih =>
    have hne : off + n ≠ x := by omega
    rw [Memory.writeBytes, read_write_other hne, ih _ (by omega)]

/-- MemWrite stores byte j of its string at off + j (20_memory.md R53). -/
theorem read_writeBytes_inside (m : Memory) (off n : Nat) (v : BitVec (8 * n)) (j : Nat) (h : j < n) :
    (m.writeBytes off n v).read (off + j) = v.extractLsb' (8 * (n - 1 - j)) 8 := by
  induction n with
  | zero => omega
  | succ n ih =>
    rw [Memory.writeBytes, read_write]
    by_cases hj : j = n
    · subst hj
      simp
    · have hne : ¬(off + n = off + j) := by omega
      rw [if_neg hne, ih _ (by omega)]
      have hidx : 8 * (n + 1 - 1 - j) = 8 + 8 * (n - 1 - j) := by omega
      rw [hidx]
      apply BitVec.eq_of_getLsbD_eq
      intro i hi
      have h1 : 8 * (n - 1 - j) + i < 8 * n := by omega
      simp only [BitVec.getLsbD_extractLsb', h1, hi, decide_true, Bool.true_and]
      congr 1
      omega

/-- A MemRead depends on the bytes of its range alone (20_memory.md R52). -/
theorem readBytes_congr {m m' : Memory} {off n : Nat} (h : ∀ j, j < n → m'.read (off + j) = m.read (off + j)) :
    m'.readBytes off n = m.readBytes off n := by
  induction n with
  | zero => rfl
  | succ n ih =>
    rw [Memory.readBytes, Memory.readBytes, ih fun j hj => h j (by omega), h n (by omega)]

/-- MemRead after MemWrite of the same range gives the string written (20_memory.md R52, R53). -/
theorem readBytes_writeBytes (m : Memory) (off n : Nat) (v : BitVec (8 * n)) :
    (m.writeBytes off n v).readBytes off n = v := by
  induction n with
  | zero => exact BitVec.of_length_zero.symm
  | succ n ih =>
    have h1 : (m.writeBytes off (n + 1) v).readBytes off n = v.extractLsb' 8 (8 * n) := by
      rw [Memory.writeBytes, readBytes_congr fun j hj => read_write_other (by omega), ih]
    rw [Memory.readBytes, h1, Memory.writeBytes, read_write_same]
    apply BitVec.eq_of_getLsbD_eq
    intro i hi
    simp only [BitVec.getLsbD_append, BitVec.getLsbD_extractLsb']
    by_cases h8 : i < 8
    · simp [h8]
    · have h2 : i - 8 < 8 * n := by omega
      have h3 : 8 + (i - 8) = i := by omega
      simp [h8, h2, h3]

/-! ### Blocks and byte strings -/

@[simp] theorem bytes_length (m : Memory) (off n : Nat) : (m.bytes off n).length = n := by
  simp [Memory.bytes]

theorem bytes_getElem (m : Memory) (off n j : Nat) (h : j < (m.bytes off n).length) :
    (m.bytes off n)[j] = m.read (off + j) := by
  simp [Memory.bytes]

/-- The bytes of a range after a byte string is stored there. -/
theorem bytes_writeList (m : Memory) (off : Nat) (bs : List Byte) : (m.writeList off bs).bytes off bs.length = bs := by
  apply List.ext_getElem
  · simp
  · intro j h1 h2
    have h3 : off ≤ off + j ∧ off + j < off + bs.length := by omega
    rw [bytes_getElem, read_writeList, if_pos h3]
    simp [List.getD_eq_getElem?_getD, h2]

theorem readBlock_writeBlock (m : Memory) (i : Nat) (v : Block) : (m.writeBlock i v).readBlock i = v :=
  readBytes_writeBytes m (8 * i) 8 v

theorem readBlock_writeBlock_other (m : Memory) {i k : Nat} (v : Block) (h : i ≠ k) :
    (m.writeBlock i v).readBlock k = m.readBlock k := by
  refine readBytes_congr fun j hj => read_writeBytes_outside m (8 * i) 8 v _ ?_
  omega

theorem read_writeBlock_outside (m : Memory) (i : Nat) (v : Block) (x : Nat) (h : x < 8 * i ∨ 8 * i + 8 ≤ x) :
    (m.writeBlock i v).read x = m.read x :=
  read_writeBytes_outside m (8 * i) 8 v x h

theorem writeBlock_wf {m : Memory} (h : m.wf) (i : Nat) (v : Block) : (m.writeBlock i v).wf :=
  writeBytes_wf h (8 * i) 8 v

theorem writeBlock_inRange {m : Memory} (h : m.inRange) {i : Nat} (v : Block) (hi : 8 * i + 8 ≤ Config.nBuf) :
    (m.writeBlock i v).inRange :=
  writeBytes_inRange h (8 * i) 8 v hi

/-- A reset event leaves nothing listed. -/
theorem afterReset_wf (m : Memory) : m.afterReset.wf := by
  simp [Memory.afterReset, Memory.wf]

theorem afterReset_inRange (m : Memory) : m.afterReset.inRange := by
  simp [Memory.afterReset, Memory.inRange]

/-- The scan of UNPAD: how many it counts, that they are zero, and that the byte before them is not
(44_cbc_padding.md R114). -/
theorem trailingZeros_spec (m : Memory) (n : Nat) :
    m.trailingZeros n ≤ n ∧ (∀ j, n - m.trailingZeros n ≤ j → j < n → m.read j = 0#8) ∧
      (m.trailingZeros n < n → m.read (n - m.trailingZeros n - 1) ≠ 0#8) := by
  induction n with
  | zero => simp [Memory.trailingZeros]
  | succ n ih =>
    by_cases h : m.read n = 0#8
    · rw [Memory.trailingZeros, if_pos h]
      refine ⟨by omega, ?_, ?_⟩
      · intro j h1 h2
        by_cases hj : j = n
        · exact hj ▸ h
        · exact ih.2.1 j (by omega) (by omega)
      · intro hlt
        have : n + 1 - (m.trailingZeros n + 1) - 1 = n - m.trailingZeros n - 1 := by omega
        rw [this]
        exact ih.2.2 (by omega)
    · rw [Memory.trailingZeros, if_neg h]
      refine ⟨by omega, by omega, ?_⟩
      intro _
      simpa using h

end Sys2Proof.Machine.Laws
end

