-- ==== Sys2Proof/Laws/State.lean ====
section
/-!
SUPPORT. What each named update of the state leaves in each field.
-/

namespace Sys2Proof.Machine.Laws

variable (s : State)

/-! ### State.goto -/

@[simp] theorem goto_ie (p : Phase) (b : BitVec 16) (r : BitVec 4) : (s.goto p b r).ie = s.ie := rfl
@[simp] theorem goto_busy (p : Phase) (b : BitVec 16) (r : BitVec 4) : (s.goto p b r).busy = s.busy := rfl
@[simp] theorem goto_done (p : Phase) (b : BitVec 16) (r : BitVec 4) : (s.goto p b r).done = s.done := rfl
@[simp] theorem goto_verifyOk (p : Phase) (b : BitVec 16) (r : BitVec 4) : (s.goto p b r).verifyOk = s.verifyOk := rfl
@[simp] theorem goto_ksv (p : Phase) (b : BitVec 16) (r : BitVec 4) : (s.goto p b r).ksv = s.ksv := rfl
@[simp] theorem goto_wdrop (p : Phase) (b : BitVec 16) (r : BitVec 4) : (s.goto p b r).wdrop = s.wdrop := rfl
@[simp] theorem goto_key0Set (p : Phase) (b : BitVec 16) (r : BitVec 4) : (s.goto p b r).key0Set = s.key0Set := rfl
@[simp] theorem goto_key1Set (p : Phase) (b : BitVec 16) (r : BitVec 4) : (s.goto p b r).key1Set = s.key1Set := rfl
@[simp] theorem goto_errcode (p : Phase) (b : BitVec 16) (r : BitVec 4) : (s.goto p b r).errcode = s.errcode := rfl
@[simp] theorem goto_len (p : Phase) (b : BitVec 16) (r : BitVec 4) : (s.goto p b r).len = s.len := rfl
@[simp] theorem goto_outlen (p : Phase) (b : BitVec 16) (r : BitVec 4) : (s.goto p b r).outlen = s.outlen := rfl
@[simp] theorem goto_vlen (p : Phase) (b : BitVec 16) (r : BitVec 4) : (s.goto p b r).vlen = s.vlen := rfl
@[simp] theorem goto_keyreg (p : Phase) (b : BitVec 16) (r : BitVec 4) : (s.goto p b r).keyreg = s.keyreg := rfl
@[simp] theorem goto_seq (p : Phase) (b : BitVec 16) (r : BitVec 4) : (s.goto p b r).seq = { phase := p, block := b, round := r } := rfl
@[simp] theorem goto_c (p : Phase) (b : BitVec 16) (r : BitVec 4) : (s.goto p b r).c = s.c := rfl
@[simp] theorem goto_d (p : Phase) (b : BitVec 16) (r : BitVec 4) : (s.goto p b r).d = s.d := rfl
@[simp] theorem goto_ks (p : Phase) (b : BitVec 16) (r : BitVec 4) : (s.goto p b r).ks = s.ks := rfl
@[simp] theorem goto_l (p : Phase) (b : BitVec 16) (r : BitVec 4) : (s.goto p b r).l = s.l := rfl
@[simp] theorem goto_r (p : Phase) (b : BitVec 16) (r : BitVec 4) : (s.goto p b r).r = s.r := rfl
@[simp] theorem goto_iv (p : Phase) (b : BitVec 16) (r : BitVec 4) : (s.goto p b r).iv = s.iv := rfl
@[simp] theorem goto_csave (p : Phase) (b : BitVec 16) (r : BitVec 4) : (s.goto p b r).csave = s.csave := rfl
@[simp] theorem goto_op (p : Phase) (b : BitVec 16) (r : BitVec 4) : (s.goto p b r).op = s.op := rfl
@[simp] theorem goto_nlen (p : Phase) (b : BitVec 16) (r : BitVec 4) : (s.goto p b r).nlen = s.nlen := rfl
@[simp] theorem goto_nvlen (p : Phase) (b : BitVec 16) (r : BitVec 4) : (s.goto p b r).nvlen = s.nvlen := rfl
@[simp] theorem goto_dirn (p : Phase) (b : BitVec 16) (r : BitVec 4) : (s.goto p b r).dirn = s.dirn := rfl
@[simp] theorem goto_mode (p : Phase) (b : BitVec 16) (r : BitVec 4) : (s.goto p b r).mode = s.mode := rfl
@[simp] theorem goto_nblk (p : Phase) (b : BitVec 16) (r : BitVec 4) : (s.goto p b r).nblk = s.nblk := rfl
@[simp] theorem goto_nplen (p : Phase) (b : BitVec 16) (r : BitVec 4) : (s.goto p b r).nplen = s.nplen := rfl
@[simp] theorem goto_rlen (p : Phase) (b : BitVec 16) (r : BitVec 4) : (s.goto p b r).rlen = s.rlen := rfl
@[simp] theorem goto_vok (p : Phase) (b : BitVec 16) (r : BitVec 4) : (s.goto p b r).vok = s.vok := rfl
@[simp] theorem goto_epend (p : Phase) (b : BitVec 16) (r : BitVec 4) : (s.goto p b r).epend = s.epend := rfl
@[simp] theorem goto_mbuf (p : Phase) (b : BitVec 16) (r : BitVec 4) : (s.goto p b r).mbuf = s.mbuf := rfl
@[simp] theorem goto_vbuf (p : Phase) (b : BitVec 16) (r : BitVec 4) : (s.goto p b r).vbuf = s.vbuf := rfl
@[simp] theorem goto_draws (p : Phase) (b : BitVec 16) (r : BitVec 4) : (s.goto p b r).draws = s.draws := rfl
@[simp] theorem goto_prog (p : Phase) (b : BitVec 16) (r : BitVec 4) : (s.goto p b r).prog = s.prog := rfl
@[simp] theorem goto_sched (p : Phase) (b : BitVec 16) (r : BitVec 4) : (s.goto p b r).sched = s.sched := rfl
@[simp] theorem goto_replies (p : Phase) (b : BitVec 16) (r : BitVec 4) : (s.goto p b r).replies = s.replies := rfl

/-! ### State.clearResults -/

@[simp] theorem clearResults_ie : s.clearResults.ie = s.ie := rfl
@[simp] theorem clearResults_busy : s.clearResults.busy = s.busy := rfl
@[simp] theorem clearResults_done : s.clearResults.done = false := rfl
@[simp] theorem clearResults_verifyOk : s.clearResults.verifyOk = false := rfl
@[simp] theorem clearResults_ksv : s.clearResults.ksv = s.ksv := rfl
@[simp] theorem clearResults_wdrop : s.clearResults.wdrop = s.wdrop := rfl
@[simp] theorem clearResults_key0Set : s.clearResults.key0Set = s.key0Set := rfl
@[simp] theorem clearResults_key1Set : s.clearResults.key1Set = s.key1Set := rfl
@[simp] theorem clearResults_errcode : s.clearResults.errcode = .none := rfl
@[simp] theorem clearResults_len : s.clearResults.len = s.len := rfl
@[simp] theorem clearResults_outlen : s.clearResults.outlen = 0#32 := rfl
@[simp] theorem clearResults_vlen : s.clearResults.vlen = s.vlen := rfl
@[simp] theorem clearResults_keyreg : s.clearResults.keyreg = s.keyreg := rfl
@[simp] theorem clearResults_seq : s.clearResults.seq = s.seq := rfl
@[simp] theorem clearResults_c : s.clearResults.c = s.c := rfl
@[simp] theorem clearResults_d : s.clearResults.d = s.d := rfl
@[simp] theorem clearResults_ks : s.clearResults.ks = s.ks := rfl
@[simp] theorem clearResults_l : s.clearResults.l = s.l := rfl
@[simp] theorem clearResults_r : s.clearResults.r = s.r := rfl
@[simp] theorem clearResults_iv : s.clearResults.iv = s.iv := rfl
@[simp] theorem clearResults_csave : s.clearResults.csave = s.csave := rfl
@[simp] theorem clearResults_op : s.clearResults.op = s.op := rfl
@[simp] theorem clearResults_nlen : s.clearResults.nlen = s.nlen := rfl
@[simp] theorem clearResults_nvlen : s.clearResults.nvlen = s.nvlen := rfl
@[simp] theorem clearResults_dirn : s.clearResults.dirn = s.dirn := rfl
@[simp] theorem clearResults_mode : s.clearResults.mode = s.mode := rfl
@[simp] theorem clearResults_nblk : s.clearResults.nblk = s.nblk := rfl
@[simp] theorem clearResults_nplen : s.clearResults.nplen = s.nplen := rfl
@[simp] theorem clearResults_rlen : s.clearResults.rlen = s.rlen := rfl
@[simp] theorem clearResults_vok : s.clearResults.vok = s.vok := rfl
@[simp] theorem clearResults_epend : s.clearResults.epend = .none := rfl
@[simp] theorem clearResults_mbuf : s.clearResults.mbuf = s.mbuf := rfl
@[simp] theorem clearResults_vbuf : s.clearResults.vbuf = s.vbuf := rfl
@[simp] theorem clearResults_draws : s.clearResults.draws = s.draws := rfl
@[simp] theorem clearResults_prog : s.clearResults.prog = s.prog := rfl
@[simp] theorem clearResults_sched : s.clearResults.sched = s.sched := rfl
@[simp] theorem clearResults_replies : s.clearResults.replies = s.replies := rfl

/-! ### State.reject -/

@[simp] theorem reject_ie (e : ErrCode) : (s.reject e).ie = s.ie := rfl
@[simp] theorem reject_busy (e : ErrCode) : (s.reject e).busy = s.busy := rfl
@[simp] theorem reject_done (e : ErrCode) : (s.reject e).done = true := rfl
@[simp] theorem reject_verifyOk (e : ErrCode) : (s.reject e).verifyOk = s.verifyOk := rfl
@[simp] theorem reject_ksv (e : ErrCode) : (s.reject e).ksv = s.ksv := rfl
@[simp] theorem reject_wdrop (e : ErrCode) : (s.reject e).wdrop = s.wdrop := rfl
@[simp] theorem reject_key0Set (e : ErrCode) : (s.reject e).key0Set = s.key0Set := rfl
@[simp] theorem reject_key1Set (e : ErrCode) : (s.reject e).key1Set = s.key1Set := rfl
@[simp] theorem reject_errcode (e : ErrCode) : (s.reject e).errcode = e := rfl
@[simp] theorem reject_len (e : ErrCode) : (s.reject e).len = s.len := rfl
@[simp] theorem reject_outlen (e : ErrCode) : (s.reject e).outlen = s.outlen := rfl
@[simp] theorem reject_vlen (e : ErrCode) : (s.reject e).vlen = s.vlen := rfl
@[simp] theorem reject_keyreg (e : ErrCode) : (s.reject e).keyreg = s.keyreg := rfl
@[simp] theorem reject_seq (e : ErrCode) : (s.reject e).seq = { phase := .idle, block := 0#16, round := 0#4 } := rfl
@[simp] theorem reject_c (e : ErrCode) : (s.reject e).c = s.c := rfl
@[simp] theorem reject_d (e : ErrCode) : (s.reject e).d = s.d := rfl
@[simp] theorem reject_ks (e : ErrCode) : (s.reject e).ks = s.ks := rfl
@[simp] theorem reject_l (e : ErrCode) : (s.reject e).l = s.l := rfl
@[simp] theorem reject_r (e : ErrCode) : (s.reject e).r = s.r := rfl
@[simp] theorem reject_iv (e : ErrCode) : (s.reject e).iv = s.iv := rfl
@[simp] theorem reject_csave (e : ErrCode) : (s.reject e).csave = s.csave := rfl
@[simp] theorem reject_op (e : ErrCode) : (s.reject e).op = s.op := rfl
@[simp] theorem reject_nlen (e : ErrCode) : (s.reject e).nlen = s.nlen := rfl
@[simp] theorem reject_nvlen (e : ErrCode) : (s.reject e).nvlen = s.nvlen := rfl
@[simp] theorem reject_dirn (e : ErrCode) : (s.reject e).dirn = s.dirn := rfl
@[simp] theorem reject_mode (e : ErrCode) : (s.reject e).mode = s.mode := rfl
@[simp] theorem reject_nblk (e : ErrCode) : (s.reject e).nblk = s.nblk := rfl
@[simp] theorem reject_nplen (e : ErrCode) : (s.reject e).nplen = s.nplen := rfl
@[simp] theorem reject_rlen (e : ErrCode) : (s.reject e).rlen = s.rlen := rfl
@[simp] theorem reject_vok (e : ErrCode) : (s.reject e).vok = s.vok := rfl
@[simp] theorem reject_epend (e : ErrCode) : (s.reject e).epend = s.epend := rfl
@[simp] theorem reject_mbuf (e : ErrCode) : (s.reject e).mbuf = s.mbuf := rfl
@[simp] theorem reject_vbuf (e : ErrCode) : (s.reject e).vbuf = s.vbuf := rfl
@[simp] theorem reject_draws (e : ErrCode) : (s.reject e).draws = s.draws := rfl
@[simp] theorem reject_prog (e : ErrCode) : (s.reject e).prog = s.prog := rfl
@[simp] theorem reject_sched (e : ErrCode) : (s.reject e).sched = s.sched := rfl
@[simp] theorem reject_replies (e : ErrCode) : (s.reject e).replies = s.replies := rfl

/-! ### State.raise -/

@[simp] theorem raise_ie (e : ErrCode) : (s.raise e).ie = s.ie := rfl
@[simp] theorem raise_busy (e : ErrCode) : (s.raise e).busy = s.busy := rfl
@[simp] theorem raise_done (e : ErrCode) : (s.raise e).done = s.done := rfl
@[simp] theorem raise_verifyOk (e : ErrCode) : (s.raise e).verifyOk = s.verifyOk := rfl
@[simp] theorem raise_ksv (e : ErrCode) : (s.raise e).ksv = s.ksv := rfl
@[simp] theorem raise_wdrop (e : ErrCode) : (s.raise e).wdrop = s.wdrop := rfl
@[simp] theorem raise_key0Set (e : ErrCode) : (s.raise e).key0Set = s.key0Set := rfl
@[simp] theorem raise_key1Set (e : ErrCode) : (s.raise e).key1Set = s.key1Set := rfl
@[simp] theorem raise_errcode (e : ErrCode) : (s.raise e).errcode = s.errcode := rfl
@[simp] theorem raise_len (e : ErrCode) : (s.raise e).len = s.len := rfl
@[simp] theorem raise_outlen (e : ErrCode) : (s.raise e).outlen = s.outlen := rfl
@[simp] theorem raise_vlen (e : ErrCode) : (s.raise e).vlen = s.vlen := rfl
@[simp] theorem raise_keyreg (e : ErrCode) : (s.raise e).keyreg = s.keyreg := rfl
@[simp] theorem raise_seq (e : ErrCode) : (s.raise e).seq = { phase := .finish, block := s.seq.block, round := 0#4 } := rfl
@[simp] theorem raise_c (e : ErrCode) : (s.raise e).c = s.c := rfl
@[simp] theorem raise_d (e : ErrCode) : (s.raise e).d = s.d := rfl
@[simp] theorem raise_ks (e : ErrCode) : (s.raise e).ks = s.ks := rfl
@[simp] theorem raise_l (e : ErrCode) : (s.raise e).l = s.l := rfl
@[simp] theorem raise_r (e : ErrCode) : (s.raise e).r = s.r := rfl
@[simp] theorem raise_iv (e : ErrCode) : (s.raise e).iv = s.iv := rfl
@[simp] theorem raise_csave (e : ErrCode) : (s.raise e).csave = s.csave := rfl
@[simp] theorem raise_op (e : ErrCode) : (s.raise e).op = s.op := rfl
@[simp] theorem raise_nlen (e : ErrCode) : (s.raise e).nlen = s.nlen := rfl
@[simp] theorem raise_nvlen (e : ErrCode) : (s.raise e).nvlen = s.nvlen := rfl
@[simp] theorem raise_dirn (e : ErrCode) : (s.raise e).dirn = s.dirn := rfl
@[simp] theorem raise_mode (e : ErrCode) : (s.raise e).mode = s.mode := rfl
@[simp] theorem raise_nblk (e : ErrCode) : (s.raise e).nblk = s.nblk := rfl
@[simp] theorem raise_nplen (e : ErrCode) : (s.raise e).nplen = s.nplen := rfl
@[simp] theorem raise_rlen (e : ErrCode) : (s.raise e).rlen = 0#32 := rfl
@[simp] theorem raise_vok (e : ErrCode) : (s.raise e).vok = s.vok := rfl
@[simp] theorem raise_epend (e : ErrCode) : (s.raise e).epend = e := rfl
@[simp] theorem raise_mbuf (e : ErrCode) : (s.raise e).mbuf = s.mbuf := rfl
@[simp] theorem raise_vbuf (e : ErrCode) : (s.raise e).vbuf = s.vbuf := rfl
@[simp] theorem raise_draws (e : ErrCode) : (s.raise e).draws = s.draws := rfl
@[simp] theorem raise_prog (e : ErrCode) : (s.raise e).prog = s.prog := rfl
@[simp] theorem raise_sched (e : ErrCode) : (s.raise e).sched = s.sched := rfl
@[simp] theorem raise_replies (e : ErrCode) : (s.raise e).replies = s.replies := rfl

/-! ### State.finish -/

@[simp] theorem finish_ie : s.finish.ie = s.ie := rfl
@[simp] theorem finish_busy : s.finish.busy = false := rfl
@[simp] theorem finish_done : s.finish.done = true := rfl
@[simp] theorem finish_verifyOk : s.finish.verifyOk = (s.op == opcode .verify && s.epend == .none && s.vok) := rfl
@[simp] theorem finish_ksv : s.finish.ksv = s.ksv := rfl
@[simp] theorem finish_wdrop : s.finish.wdrop = s.wdrop := rfl
@[simp] theorem finish_key0Set : s.finish.key0Set = s.key0Set := rfl
@[simp] theorem finish_key1Set : s.finish.key1Set = s.key1Set := rfl
@[simp] theorem finish_errcode : s.finish.errcode = s.epend := rfl
@[simp] theorem finish_len : s.finish.len = s.len := rfl
@[simp] theorem finish_outlen : s.finish.outlen = if s.epend = .none then s.rlen else 0#32 := rfl
@[simp] theorem finish_vlen : s.finish.vlen = s.vlen := rfl
@[simp] theorem finish_keyreg : s.finish.keyreg = s.keyreg := rfl
@[simp] theorem finish_seq : s.finish.seq = { phase := .idle, block := s.nblk, round := 0#4 } := rfl
@[simp] theorem finish_c : s.finish.c = s.c := rfl
@[simp] theorem finish_d : s.finish.d = s.d := rfl
@[simp] theorem finish_ks : s.finish.ks = s.ks := rfl
@[simp] theorem finish_l : s.finish.l = s.l := rfl
@[simp] theorem finish_r : s.finish.r = s.r := rfl
@[simp] theorem finish_iv : s.finish.iv = s.iv := rfl
@[simp] theorem finish_csave : s.finish.csave = s.csave := rfl
@[simp] theorem finish_op : s.finish.op = s.op := rfl
@[simp] theorem finish_nlen : s.finish.nlen = s.nlen := rfl
@[simp] theorem finish_nvlen : s.finish.nvlen = s.nvlen := rfl
@[simp] theorem finish_dirn : s.finish.dirn = s.dirn := rfl
@[simp] theorem finish_mode : s.finish.mode = s.mode := rfl
@[simp] theorem finish_nblk : s.finish.nblk = s.nblk := rfl
@[simp] theorem finish_nplen : s.finish.nplen = s.nplen := rfl
@[simp] theorem finish_rlen : s.finish.rlen = s.rlen := rfl
@[simp] theorem finish_vok : s.finish.vok = s.vok := rfl
@[simp] theorem finish_epend : s.finish.epend = s.epend := rfl
@[simp] theorem finish_mbuf : s.finish.mbuf = s.mbuf := rfl
@[simp] theorem finish_vbuf : s.finish.vbuf = s.vbuf := rfl
@[simp] theorem finish_draws : s.finish.draws = s.draws := rfl
@[simp] theorem finish_prog : s.finish.prog = s.prog := rfl
@[simp] theorem finish_sched : s.finish.sched = s.sched := rfl
@[simp] theorem finish_replies : s.finish.replies = s.replies := rfl

/-! ### State.start -/

@[simp] theorem start_ie (i : Instr) (k : Latch) : (s.start i k).ie = s.ie := rfl
@[simp] theorem start_busy (i : Instr) (k : Latch) : (s.start i k).busy = true := rfl
@[simp] theorem start_done (i : Instr) (k : Latch) : (s.start i k).done = s.done := rfl
@[simp] theorem start_verifyOk (i : Instr) (k : Latch) : (s.start i k).verifyOk = s.verifyOk := rfl
@[simp] theorem start_ksv (i : Instr) (k : Latch) : (s.start i k).ksv = s.ksv := rfl
@[simp] theorem start_wdrop (i : Instr) (k : Latch) : (s.start i k).wdrop = s.wdrop := rfl
@[simp] theorem start_key0Set (i : Instr) (k : Latch) : (s.start i k).key0Set = s.key0Set := rfl
@[simp] theorem start_key1Set (i : Instr) (k : Latch) : (s.start i k).key1Set = s.key1Set := rfl
@[simp] theorem start_errcode (i : Instr) (k : Latch) : (s.start i k).errcode = s.errcode := rfl
@[simp] theorem start_len (i : Instr) (k : Latch) : (s.start i k).len = s.len := rfl
@[simp] theorem start_outlen (i : Instr) (k : Latch) : (s.start i k).outlen = s.outlen := rfl
@[simp] theorem start_vlen (i : Instr) (k : Latch) : (s.start i k).vlen = s.vlen := rfl
@[simp] theorem start_keyreg (i : Instr) (k : Latch) : (s.start i k).keyreg = s.keyreg := rfl
@[simp] theorem start_seq (i : Instr) (k : Latch) : (s.start i k).seq = { phase := k.first, block := 0#16, round := 0#4 } := rfl
@[simp] theorem start_c (i : Instr) (k : Latch) : (s.start i k).c = s.c := rfl
@[simp] theorem start_d (i : Instr) (k : Latch) : (s.start i k).d = s.d := rfl
@[simp] theorem start_ks (i : Instr) (k : Latch) : (s.start i k).ks = s.ks := rfl
@[simp] theorem start_l (i : Instr) (k : Latch) : (s.start i k).l = s.l := rfl
@[simp] theorem start_r (i : Instr) (k : Latch) : (s.start i k).r = s.r := rfl
@[simp] theorem start_iv (i : Instr) (k : Latch) : (s.start i k).iv = s.iv := rfl
@[simp] theorem start_csave (i : Instr) (k : Latch) : (s.start i k).csave = s.csave := rfl
@[simp] theorem start_op (i : Instr) (k : Latch) : (s.start i k).op = opcode i := rfl
@[simp] theorem start_nlen (i : Instr) (k : Latch) : (s.start i k).nlen = s.len := rfl
@[simp] theorem start_nvlen (i : Instr) (k : Latch) : (s.start i k).nvlen = s.vlen := rfl
@[simp] theorem start_dirn (i : Instr) (k : Latch) : (s.start i k).dirn = k.dirn := rfl
@[simp] theorem start_mode (i : Instr) (k : Latch) : (s.start i k).mode = k.mode := rfl
@[simp] theorem start_nblk (i : Instr) (k : Latch) : (s.start i k).nblk = k.nblk := rfl
@[simp] theorem start_nplen (i : Instr) (k : Latch) : (s.start i k).nplen = s.nplen := rfl
@[simp] theorem start_rlen (i : Instr) (k : Latch) : (s.start i k).rlen = k.rlen := rfl
@[simp] theorem start_vok (i : Instr) (k : Latch) : (s.start i k).vok = false := rfl
@[simp] theorem start_epend (i : Instr) (k : Latch) : (s.start i k).epend = s.epend := rfl
@[simp] theorem start_mbuf (i : Instr) (k : Latch) : (s.start i k).mbuf = s.mbuf := rfl
@[simp] theorem start_vbuf (i : Instr) (k : Latch) : (s.start i k).vbuf = s.vbuf := rfl
@[simp] theorem start_draws (i : Instr) (k : Latch) : (s.start i k).draws = s.draws := rfl
@[simp] theorem start_prog (i : Instr) (k : Latch) : (s.start i k).prog = s.prog := rfl
@[simp] theorem start_sched (i : Instr) (k : Latch) : (s.start i k).sched = s.sched := rfl
@[simp] theorem start_replies (i : Instr) (k : Latch) : (s.start i k).replies = s.replies := rfl

/-! ### State.dropWrite -/

@[simp] theorem dropWrite_ie : s.dropWrite.ie = s.ie := rfl
@[simp] theorem dropWrite_busy : s.dropWrite.busy = s.busy := rfl
@[simp] theorem dropWrite_done : s.dropWrite.done = s.done := rfl
@[simp] theorem dropWrite_verifyOk : s.dropWrite.verifyOk = s.verifyOk := rfl
@[simp] theorem dropWrite_ksv : s.dropWrite.ksv = s.ksv := rfl
@[simp] theorem dropWrite_wdrop : s.dropWrite.wdrop = true := rfl
@[simp] theorem dropWrite_key0Set : s.dropWrite.key0Set = s.key0Set := rfl
@[simp] theorem dropWrite_key1Set : s.dropWrite.key1Set = s.key1Set := rfl
@[simp] theorem dropWrite_errcode : s.dropWrite.errcode = s.errcode := rfl
@[simp] theorem dropWrite_len : s.dropWrite.len = s.len := rfl
@[simp] theorem dropWrite_outlen : s.dropWrite.outlen = s.outlen := rfl
@[simp] theorem dropWrite_vlen : s.dropWrite.vlen = s.vlen := rfl
@[simp] theorem dropWrite_keyreg : s.dropWrite.keyreg = s.keyreg := rfl
@[simp] theorem dropWrite_seq : s.dropWrite.seq = s.seq := rfl
@[simp] theorem dropWrite_c : s.dropWrite.c = s.c := rfl
@[simp] theorem dropWrite_d : s.dropWrite.d = s.d := rfl
@[simp] theorem dropWrite_ks : s.dropWrite.ks = s.ks := rfl
@[simp] theorem dropWrite_l : s.dropWrite.l = s.l := rfl
@[simp] theorem dropWrite_r : s.dropWrite.r = s.r := rfl
@[simp] theorem dropWrite_iv : s.dropWrite.iv = s.iv := rfl
@[simp] theorem dropWrite_csave : s.dropWrite.csave = s.csave := rfl
@[simp] theorem dropWrite_op : s.dropWrite.op = s.op := rfl
@[simp] theorem dropWrite_nlen : s.dropWrite.nlen = s.nlen := rfl
@[simp] theorem dropWrite_nvlen : s.dropWrite.nvlen = s.nvlen := rfl
@[simp] theorem dropWrite_dirn : s.dropWrite.dirn = s.dirn := rfl
@[simp] theorem dropWrite_mode : s.dropWrite.mode = s.mode := rfl
@[simp] theorem dropWrite_nblk : s.dropWrite.nblk = s.nblk := rfl
@[simp] theorem dropWrite_nplen : s.dropWrite.nplen = s.nplen := rfl
@[simp] theorem dropWrite_rlen : s.dropWrite.rlen = s.rlen := rfl
@[simp] theorem dropWrite_vok : s.dropWrite.vok = s.vok := rfl
@[simp] theorem dropWrite_epend : s.dropWrite.epend = s.epend := rfl
@[simp] theorem dropWrite_mbuf : s.dropWrite.mbuf = s.mbuf := rfl
@[simp] theorem dropWrite_vbuf : s.dropWrite.vbuf = s.vbuf := rfl
@[simp] theorem dropWrite_draws : s.dropWrite.draws = s.draws := rfl
@[simp] theorem dropWrite_prog : s.dropWrite.prog = s.prog := rfl
@[simp] theorem dropWrite_sched : s.dropWrite.sched = s.sched := rfl
@[simp] theorem dropWrite_replies : s.dropWrite.replies = s.replies := rfl

/-! ### State.writeCtrl -/

@[simp] theorem writeCtrl_ie (v : Word) : (s.writeCtrl v).ie = v.getLsbD 0 := rfl
@[simp] theorem writeCtrl_busy (v : Word) : (s.writeCtrl v).busy = s.busy := rfl
@[simp] theorem writeCtrl_done (v : Word) : (s.writeCtrl v).done = s.done := rfl
@[simp] theorem writeCtrl_verifyOk (v : Word) : (s.writeCtrl v).verifyOk = s.verifyOk := rfl
@[simp] theorem writeCtrl_ksv (v : Word) : (s.writeCtrl v).ksv = s.ksv := rfl
@[simp] theorem writeCtrl_wdrop (v : Word) : (s.writeCtrl v).wdrop = s.wdrop := rfl
@[simp] theorem writeCtrl_key0Set (v : Word) : (s.writeCtrl v).key0Set = s.key0Set := rfl
@[simp] theorem writeCtrl_key1Set (v : Word) : (s.writeCtrl v).key1Set = s.key1Set := rfl
@[simp] theorem writeCtrl_errcode (v : Word) : (s.writeCtrl v).errcode = s.errcode := rfl
@[simp] theorem writeCtrl_len (v : Word) : (s.writeCtrl v).len = s.len := rfl
@[simp] theorem writeCtrl_outlen (v : Word) : (s.writeCtrl v).outlen = s.outlen := rfl
@[simp] theorem writeCtrl_vlen (v : Word) : (s.writeCtrl v).vlen = s.vlen := rfl
@[simp] theorem writeCtrl_keyreg (v : Word) : (s.writeCtrl v).keyreg = s.keyreg := rfl
@[simp] theorem writeCtrl_seq (v : Word) : (s.writeCtrl v).seq = s.seq := rfl
@[simp] theorem writeCtrl_c (v : Word) : (s.writeCtrl v).c = s.c := rfl
@[simp] theorem writeCtrl_d (v : Word) : (s.writeCtrl v).d = s.d := rfl
@[simp] theorem writeCtrl_ks (v : Word) : (s.writeCtrl v).ks = s.ks := rfl
@[simp] theorem writeCtrl_l (v : Word) : (s.writeCtrl v).l = s.l := rfl
@[simp] theorem writeCtrl_r (v : Word) : (s.writeCtrl v).r = s.r := rfl
@[simp] theorem writeCtrl_iv (v : Word) : (s.writeCtrl v).iv = s.iv := rfl
@[simp] theorem writeCtrl_csave (v : Word) : (s.writeCtrl v).csave = s.csave := rfl
@[simp] theorem writeCtrl_op (v : Word) : (s.writeCtrl v).op = s.op := rfl
@[simp] theorem writeCtrl_nlen (v : Word) : (s.writeCtrl v).nlen = s.nlen := rfl
@[simp] theorem writeCtrl_nvlen (v : Word) : (s.writeCtrl v).nvlen = s.nvlen := rfl
@[simp] theorem writeCtrl_dirn (v : Word) : (s.writeCtrl v).dirn = s.dirn := rfl
@[simp] theorem writeCtrl_mode (v : Word) : (s.writeCtrl v).mode = s.mode := rfl
@[simp] theorem writeCtrl_nblk (v : Word) : (s.writeCtrl v).nblk = s.nblk := rfl
@[simp] theorem writeCtrl_nplen (v : Word) : (s.writeCtrl v).nplen = s.nplen := rfl
@[simp] theorem writeCtrl_rlen (v : Word) : (s.writeCtrl v).rlen = s.rlen := rfl
@[simp] theorem writeCtrl_vok (v : Word) : (s.writeCtrl v).vok = s.vok := rfl
@[simp] theorem writeCtrl_epend (v : Word) : (s.writeCtrl v).epend = s.epend := rfl
@[simp] theorem writeCtrl_mbuf (v : Word) : (s.writeCtrl v).mbuf = s.mbuf := rfl
@[simp] theorem writeCtrl_vbuf (v : Word) : (s.writeCtrl v).vbuf = s.vbuf := rfl
@[simp] theorem writeCtrl_draws (v : Word) : (s.writeCtrl v).draws = s.draws := rfl
@[simp] theorem writeCtrl_prog (v : Word) : (s.writeCtrl v).prog = s.prog := rfl
@[simp] theorem writeCtrl_sched (v : Word) : (s.writeCtrl v).sched = s.sched := rfl
@[simp] theorem writeCtrl_replies (v : Word) : (s.writeCtrl v).replies = s.replies := rfl

/-! ### State.writeStatus -/

@[simp] theorem writeStatus_ie (v : Word) : (s.writeStatus v).ie = s.ie := rfl
@[simp] theorem writeStatus_busy (v : Word) : (s.writeStatus v).busy = s.busy := rfl
@[simp] theorem writeStatus_done (v : Word) : (s.writeStatus v).done = (s.done && !v.getLsbD 1) := rfl
@[simp] theorem writeStatus_verifyOk (v : Word) : (s.writeStatus v).verifyOk = s.verifyOk := rfl
@[simp] theorem writeStatus_ksv (v : Word) : (s.writeStatus v).ksv = s.ksv := rfl
@[simp] theorem writeStatus_wdrop (v : Word) : (s.writeStatus v).wdrop = (s.wdrop && !v.getLsbD 5) := rfl
@[simp] theorem writeStatus_key0Set (v : Word) : (s.writeStatus v).key0Set = s.key0Set := rfl
@[simp] theorem writeStatus_key1Set (v : Word) : (s.writeStatus v).key1Set = s.key1Set := rfl
@[simp] theorem writeStatus_errcode (v : Word) : (s.writeStatus v).errcode = s.errcode := rfl
@[simp] theorem writeStatus_len (v : Word) : (s.writeStatus v).len = s.len := rfl
@[simp] theorem writeStatus_outlen (v : Word) : (s.writeStatus v).outlen = s.outlen := rfl
@[simp] theorem writeStatus_vlen (v : Word) : (s.writeStatus v).vlen = s.vlen := rfl
@[simp] theorem writeStatus_keyreg (v : Word) : (s.writeStatus v).keyreg = s.keyreg := rfl
@[simp] theorem writeStatus_seq (v : Word) : (s.writeStatus v).seq = s.seq := rfl
@[simp] theorem writeStatus_c (v : Word) : (s.writeStatus v).c = s.c := rfl
@[simp] theorem writeStatus_d (v : Word) : (s.writeStatus v).d = s.d := rfl
@[simp] theorem writeStatus_ks (v : Word) : (s.writeStatus v).ks = s.ks := rfl
@[simp] theorem writeStatus_l (v : Word) : (s.writeStatus v).l = s.l := rfl
@[simp] theorem writeStatus_r (v : Word) : (s.writeStatus v).r = s.r := rfl
@[simp] theorem writeStatus_iv (v : Word) : (s.writeStatus v).iv = s.iv := rfl
@[simp] theorem writeStatus_csave (v : Word) : (s.writeStatus v).csave = s.csave := rfl
@[simp] theorem writeStatus_op (v : Word) : (s.writeStatus v).op = s.op := rfl
@[simp] theorem writeStatus_nlen (v : Word) : (s.writeStatus v).nlen = s.nlen := rfl
@[simp] theorem writeStatus_nvlen (v : Word) : (s.writeStatus v).nvlen = s.nvlen := rfl
@[simp] theorem writeStatus_dirn (v : Word) : (s.writeStatus v).dirn = s.dirn := rfl
@[simp] theorem writeStatus_mode (v : Word) : (s.writeStatus v).mode = s.mode := rfl
@[simp] theorem writeStatus_nblk (v : Word) : (s.writeStatus v).nblk = s.nblk := rfl
@[simp] theorem writeStatus_nplen (v : Word) : (s.writeStatus v).nplen = s.nplen := rfl
@[simp] theorem writeStatus_rlen (v : Word) : (s.writeStatus v).rlen = s.rlen := rfl
@[simp] theorem writeStatus_vok (v : Word) : (s.writeStatus v).vok = s.vok := rfl
@[simp] theorem writeStatus_epend (v : Word) : (s.writeStatus v).epend = s.epend := rfl
@[simp] theorem writeStatus_mbuf (v : Word) : (s.writeStatus v).mbuf = s.mbuf := rfl
@[simp] theorem writeStatus_vbuf (v : Word) : (s.writeStatus v).vbuf = s.vbuf := rfl
@[simp] theorem writeStatus_draws (v : Word) : (s.writeStatus v).draws = s.draws := rfl
@[simp] theorem writeStatus_prog (v : Word) : (s.writeStatus v).prog = s.prog := rfl
@[simp] theorem writeStatus_sched (v : Word) : (s.writeStatus v).sched = s.sched := rfl
@[simp] theorem writeStatus_replies (v : Word) : (s.writeStatus v).replies = s.replies := rfl

/-! ### State.reply -/

@[simp] theorem reply_ie (v : Word) : (s.reply v).ie = s.ie := rfl
@[simp] theorem reply_busy (v : Word) : (s.reply v).busy = s.busy := rfl
@[simp] theorem reply_done (v : Word) : (s.reply v).done = s.done := rfl
@[simp] theorem reply_verifyOk (v : Word) : (s.reply v).verifyOk = s.verifyOk := rfl
@[simp] theorem reply_ksv (v : Word) : (s.reply v).ksv = s.ksv := rfl
@[simp] theorem reply_wdrop (v : Word) : (s.reply v).wdrop = s.wdrop := rfl
@[simp] theorem reply_key0Set (v : Word) : (s.reply v).key0Set = s.key0Set := rfl
@[simp] theorem reply_key1Set (v : Word) : (s.reply v).key1Set = s.key1Set := rfl
@[simp] theorem reply_errcode (v : Word) : (s.reply v).errcode = s.errcode := rfl
@[simp] theorem reply_len (v : Word) : (s.reply v).len = s.len := rfl
@[simp] theorem reply_outlen (v : Word) : (s.reply v).outlen = s.outlen := rfl
@[simp] theorem reply_vlen (v : Word) : (s.reply v).vlen = s.vlen := rfl
@[simp] theorem reply_keyreg (v : Word) : (s.reply v).keyreg = s.keyreg := rfl
@[simp] theorem reply_seq (v : Word) : (s.reply v).seq = s.seq := rfl
@[simp] theorem reply_c (v : Word) : (s.reply v).c = s.c := rfl
@[simp] theorem reply_d (v : Word) : (s.reply v).d = s.d := rfl
@[simp] theorem reply_ks (v : Word) : (s.reply v).ks = s.ks := rfl
@[simp] theorem reply_l (v : Word) : (s.reply v).l = s.l := rfl
@[simp] theorem reply_r (v : Word) : (s.reply v).r = s.r := rfl
@[simp] theorem reply_iv (v : Word) : (s.reply v).iv = s.iv := rfl
@[simp] theorem reply_csave (v : Word) : (s.reply v).csave = s.csave := rfl
@[simp] theorem reply_op (v : Word) : (s.reply v).op = s.op := rfl
@[simp] theorem reply_nlen (v : Word) : (s.reply v).nlen = s.nlen := rfl
@[simp] theorem reply_nvlen (v : Word) : (s.reply v).nvlen = s.nvlen := rfl
@[simp] theorem reply_dirn (v : Word) : (s.reply v).dirn = s.dirn := rfl
@[simp] theorem reply_mode (v : Word) : (s.reply v).mode = s.mode := rfl
@[simp] theorem reply_nblk (v : Word) : (s.reply v).nblk = s.nblk := rfl
@[simp] theorem reply_nplen (v : Word) : (s.reply v).nplen = s.nplen := rfl
@[simp] theorem reply_rlen (v : Word) : (s.reply v).rlen = s.rlen := rfl
@[simp] theorem reply_vok (v : Word) : (s.reply v).vok = s.vok := rfl
@[simp] theorem reply_epend (v : Word) : (s.reply v).epend = s.epend := rfl
@[simp] theorem reply_mbuf (v : Word) : (s.reply v).mbuf = s.mbuf := rfl
@[simp] theorem reply_vbuf (v : Word) : (s.reply v).vbuf = s.vbuf := rfl
@[simp] theorem reply_draws (v : Word) : (s.reply v).draws = s.draws := rfl
@[simp] theorem reply_prog (v : Word) : (s.reply v).prog = s.prog := rfl
@[simp] theorem reply_sched (v : Word) : (s.reply v).sched = s.sched := rfl
@[simp] theorem reply_replies (v : Word) : (s.reply v).replies = v :: s.replies := rfl

/-! ### State.setKey0 -/

@[simp] theorem setKey0_ie (v : Word) : (s.setKey0 v).ie = s.ie := rfl
@[simp] theorem setKey0_busy (v : Word) : (s.setKey0 v).busy = s.busy := rfl
@[simp] theorem setKey0_done (v : Word) : (s.setKey0 v).done = s.done := rfl
@[simp] theorem setKey0_verifyOk (v : Word) : (s.setKey0 v).verifyOk = s.verifyOk := rfl
@[simp] theorem setKey0_ksv (v : Word) : (s.setKey0 v).ksv = false := rfl
@[simp] theorem setKey0_wdrop (v : Word) : (s.setKey0 v).wdrop = s.wdrop := rfl
@[simp] theorem setKey0_key0Set (v : Word) : (s.setKey0 v).key0Set = true := rfl
@[simp] theorem setKey0_key1Set (v : Word) : (s.setKey0 v).key1Set = s.key1Set := rfl
@[simp] theorem setKey0_errcode (v : Word) : (s.setKey0 v).errcode = s.errcode := rfl
@[simp] theorem setKey0_len (v : Word) : (s.setKey0 v).len = s.len := rfl
@[simp] theorem setKey0_outlen (v : Word) : (s.setKey0 v).outlen = s.outlen := rfl
@[simp] theorem setKey0_vlen (v : Word) : (s.setKey0 v).vlen = s.vlen := rfl
@[simp] theorem setKey0_keyreg (v : Word) : (s.setKey0 v).keyreg = v ++ s.keyreg.extractLsb' 0 32 := rfl
@[simp] theorem setKey0_seq (v : Word) : (s.setKey0 v).seq = s.seq := rfl
@[simp] theorem setKey0_c (v : Word) : (s.setKey0 v).c = s.c := rfl
@[simp] theorem setKey0_d (v : Word) : (s.setKey0 v).d = s.d := rfl
@[simp] theorem setKey0_ks (v : Word) : (s.setKey0 v).ks = s.ks := rfl
@[simp] theorem setKey0_l (v : Word) : (s.setKey0 v).l = s.l := rfl
@[simp] theorem setKey0_r (v : Word) : (s.setKey0 v).r = s.r := rfl
@[simp] theorem setKey0_iv (v : Word) : (s.setKey0 v).iv = s.iv := rfl
@[simp] theorem setKey0_csave (v : Word) : (s.setKey0 v).csave = s.csave := rfl
@[simp] theorem setKey0_op (v : Word) : (s.setKey0 v).op = s.op := rfl
@[simp] theorem setKey0_nlen (v : Word) : (s.setKey0 v).nlen = s.nlen := rfl
@[simp] theorem setKey0_nvlen (v : Word) : (s.setKey0 v).nvlen = s.nvlen := rfl
@[simp] theorem setKey0_dirn (v : Word) : (s.setKey0 v).dirn = s.dirn := rfl
@[simp] theorem setKey0_mode (v : Word) : (s.setKey0 v).mode = s.mode := rfl
@[simp] theorem setKey0_nblk (v : Word) : (s.setKey0 v).nblk = s.nblk := rfl
@[simp] theorem setKey0_nplen (v : Word) : (s.setKey0 v).nplen = s.nplen := rfl
@[simp] theorem setKey0_rlen (v : Word) : (s.setKey0 v).rlen = s.rlen := rfl
@[simp] theorem setKey0_vok (v : Word) : (s.setKey0 v).vok = s.vok := rfl
@[simp] theorem setKey0_epend (v : Word) : (s.setKey0 v).epend = s.epend := rfl
@[simp] theorem setKey0_mbuf (v : Word) : (s.setKey0 v).mbuf = s.mbuf := rfl
@[simp] theorem setKey0_vbuf (v : Word) : (s.setKey0 v).vbuf = s.vbuf := rfl
@[simp] theorem setKey0_draws (v : Word) : (s.setKey0 v).draws = s.draws := rfl
@[simp] theorem setKey0_prog (v : Word) : (s.setKey0 v).prog = s.prog := rfl
@[simp] theorem setKey0_sched (v : Word) : (s.setKey0 v).sched = s.sched := rfl
@[simp] theorem setKey0_replies (v : Word) : (s.setKey0 v).replies = s.replies := rfl

/-! ### State.setKey1 -/

@[simp] theorem setKey1_ie (v : Word) : (s.setKey1 v).ie = s.ie := rfl
@[simp] theorem setKey1_busy (v : Word) : (s.setKey1 v).busy = s.busy := rfl
@[simp] theorem setKey1_done (v : Word) : (s.setKey1 v).done = s.done := rfl
@[simp] theorem setKey1_verifyOk (v : Word) : (s.setKey1 v).verifyOk = s.verifyOk := rfl
@[simp] theorem setKey1_ksv (v : Word) : (s.setKey1 v).ksv = false := rfl
@[simp] theorem setKey1_wdrop (v : Word) : (s.setKey1 v).wdrop = s.wdrop := rfl
@[simp] theorem setKey1_key0Set (v : Word) : (s.setKey1 v).key0Set = s.key0Set := rfl
@[simp] theorem setKey1_key1Set (v : Word) : (s.setKey1 v).key1Set = true := rfl
@[simp] theorem setKey1_errcode (v : Word) : (s.setKey1 v).errcode = s.errcode := rfl
@[simp] theorem setKey1_len (v : Word) : (s.setKey1 v).len = s.len := rfl
@[simp] theorem setKey1_outlen (v : Word) : (s.setKey1 v).outlen = s.outlen := rfl
@[simp] theorem setKey1_vlen (v : Word) : (s.setKey1 v).vlen = s.vlen := rfl
@[simp] theorem setKey1_keyreg (v : Word) : (s.setKey1 v).keyreg = s.keyreg.extractLsb' 32 32 ++ v := rfl
@[simp] theorem setKey1_seq (v : Word) : (s.setKey1 v).seq = s.seq := rfl
@[simp] theorem setKey1_c (v : Word) : (s.setKey1 v).c = s.c := rfl
@[simp] theorem setKey1_d (v : Word) : (s.setKey1 v).d = s.d := rfl
@[simp] theorem setKey1_ks (v : Word) : (s.setKey1 v).ks = s.ks := rfl
@[simp] theorem setKey1_l (v : Word) : (s.setKey1 v).l = s.l := rfl
@[simp] theorem setKey1_r (v : Word) : (s.setKey1 v).r = s.r := rfl
@[simp] theorem setKey1_iv (v : Word) : (s.setKey1 v).iv = s.iv := rfl
@[simp] theorem setKey1_csave (v : Word) : (s.setKey1 v).csave = s.csave := rfl
@[simp] theorem setKey1_op (v : Word) : (s.setKey1 v).op = s.op := rfl
@[simp] theorem setKey1_nlen (v : Word) : (s.setKey1 v).nlen = s.nlen := rfl
@[simp] theorem setKey1_nvlen (v : Word) : (s.setKey1 v).nvlen = s.nvlen := rfl
@[simp] theorem setKey1_dirn (v : Word) : (s.setKey1 v).dirn = s.dirn := rfl
@[simp] theorem setKey1_mode (v : Word) : (s.setKey1 v).mode = s.mode := rfl
@[simp] theorem setKey1_nblk (v : Word) : (s.setKey1 v).nblk = s.nblk := rfl
@[simp] theorem setKey1_nplen (v : Word) : (s.setKey1 v).nplen = s.nplen := rfl
@[simp] theorem setKey1_rlen (v : Word) : (s.setKey1 v).rlen = s.rlen := rfl
@[simp] theorem setKey1_vok (v : Word) : (s.setKey1 v).vok = s.vok := rfl
@[simp] theorem setKey1_epend (v : Word) : (s.setKey1 v).epend = s.epend := rfl
@[simp] theorem setKey1_mbuf (v : Word) : (s.setKey1 v).mbuf = s.mbuf := rfl
@[simp] theorem setKey1_vbuf (v : Word) : (s.setKey1 v).vbuf = s.vbuf := rfl
@[simp] theorem setKey1_draws (v : Word) : (s.setKey1 v).draws = s.draws := rfl
@[simp] theorem setKey1_prog (v : Word) : (s.setKey1 v).prog = s.prog := rfl
@[simp] theorem setKey1_sched (v : Word) : (s.setKey1 v).sched = s.sched := rfl
@[simp] theorem setKey1_replies (v : Word) : (s.setKey1 v).replies = s.replies := rfl

/-! ### State.hostNext -/

@[simp] theorem hostNext_ie (h : HostOp) : (s.hostNext h).ie = s.ie := rfl
@[simp] theorem hostNext_busy (h : HostOp) : (s.hostNext h).busy = s.busy := rfl
@[simp] theorem hostNext_done (h : HostOp) : (s.hostNext h).done = s.done := rfl
@[simp] theorem hostNext_verifyOk (h : HostOp) : (s.hostNext h).verifyOk = s.verifyOk := rfl
@[simp] theorem hostNext_ksv (h : HostOp) : (s.hostNext h).ksv = s.ksv := rfl
@[simp] theorem hostNext_wdrop (h : HostOp) : (s.hostNext h).wdrop = s.wdrop := rfl
@[simp] theorem hostNext_key0Set (h : HostOp) : (s.hostNext h).key0Set = s.key0Set := rfl
@[simp] theorem hostNext_key1Set (h : HostOp) : (s.hostNext h).key1Set = s.key1Set := rfl
@[simp] theorem hostNext_errcode (h : HostOp) : (s.hostNext h).errcode = s.errcode := rfl
@[simp] theorem hostNext_len (h : HostOp) : (s.hostNext h).len = s.len := rfl
@[simp] theorem hostNext_outlen (h : HostOp) : (s.hostNext h).outlen = s.outlen := rfl
@[simp] theorem hostNext_vlen (h : HostOp) : (s.hostNext h).vlen = s.vlen := rfl
@[simp] theorem hostNext_keyreg (h : HostOp) : (s.hostNext h).keyreg = s.keyreg := rfl
@[simp] theorem hostNext_seq (h : HostOp) : (s.hostNext h).seq = s.seq := rfl
@[simp] theorem hostNext_c (h : HostOp) : (s.hostNext h).c = s.c := rfl
@[simp] theorem hostNext_d (h : HostOp) : (s.hostNext h).d = s.d := rfl
@[simp] theorem hostNext_ks (h : HostOp) : (s.hostNext h).ks = s.ks := rfl
@[simp] theorem hostNext_l (h : HostOp) : (s.hostNext h).l = s.l := rfl
@[simp] theorem hostNext_r (h : HostOp) : (s.hostNext h).r = s.r := rfl
@[simp] theorem hostNext_iv (h : HostOp) : (s.hostNext h).iv = s.iv := rfl
@[simp] theorem hostNext_csave (h : HostOp) : (s.hostNext h).csave = s.csave := rfl
@[simp] theorem hostNext_op (h : HostOp) : (s.hostNext h).op = s.op := rfl
@[simp] theorem hostNext_nlen (h : HostOp) : (s.hostNext h).nlen = s.nlen := rfl
@[simp] theorem hostNext_nvlen (h : HostOp) : (s.hostNext h).nvlen = s.nvlen := rfl
@[simp] theorem hostNext_dirn (h : HostOp) : (s.hostNext h).dirn = s.dirn := rfl
@[simp] theorem hostNext_mode (h : HostOp) : (s.hostNext h).mode = s.mode := rfl
@[simp] theorem hostNext_nblk (h : HostOp) : (s.hostNext h).nblk = s.nblk := rfl
@[simp] theorem hostNext_nplen (h : HostOp) : (s.hostNext h).nplen = s.nplen := rfl
@[simp] theorem hostNext_rlen (h : HostOp) : (s.hostNext h).rlen = s.rlen := rfl
@[simp] theorem hostNext_vok (h : HostOp) : (s.hostNext h).vok = s.vok := rfl
@[simp] theorem hostNext_epend (h : HostOp) : (s.hostNext h).epend = s.epend := rfl
@[simp] theorem hostNext_mbuf (h : HostOp) : (s.hostNext h).mbuf = s.mbuf := rfl
@[simp] theorem hostNext_vbuf (h : HostOp) : (s.hostNext h).vbuf = s.vbuf := rfl
@[simp] theorem hostNext_draws (h : HostOp) : (s.hostNext h).draws = s.draws := rfl
@[simp] theorem hostNext_prog (h : HostOp) : (s.hostNext h).prog = h :: s.prog := rfl
@[simp] theorem hostNext_sched (h : HostOp) : (s.hostNext h).sched = .host :: s.sched := rfl
@[simp] theorem hostNext_replies (h : HostOp) : (s.hostNext h).replies = s.replies := rfl

/-! ### State.keygenData -/

@[simp] theorem keygenData_ie : s.keygenData.ie = s.ie := rfl
@[simp] theorem keygenData_busy : s.keygenData.busy = s.busy := rfl
@[simp] theorem keygenData_done : s.keygenData.done = s.done := rfl
@[simp] theorem keygenData_verifyOk : s.keygenData.verifyOk = s.verifyOk := rfl
@[simp] theorem keygenData_ksv : s.keygenData.ksv = if s.seq.round = 0#4 then false else s.ksv := rfl
@[simp] theorem keygenData_wdrop : s.keygenData.wdrop = s.wdrop := rfl
@[simp] theorem keygenData_key0Set : s.keygenData.key0Set = s.key0Set := rfl
@[simp] theorem keygenData_key1Set : s.keygenData.key1Set = s.key1Set := rfl
@[simp] theorem keygenData_errcode : s.keygenData.errcode = s.errcode := rfl
@[simp] theorem keygenData_len : s.keygenData.len = s.len := rfl
@[simp] theorem keygenData_outlen : s.keygenData.outlen = s.outlen := rfl
@[simp] theorem keygenData_vlen : s.keygenData.vlen = s.vlen := rfl
@[simp] theorem keygenData_keyreg : s.keygenData.keyreg = s.keyreg := rfl
@[simp] theorem keygenData_seq : s.keygenData.seq = s.seq := rfl
@[simp] theorem keygenData_c : s.keygenData.c = (rotateHalves s.seq.round.toNat s.keygenHalves).1 := rfl
@[simp] theorem keygenData_d : s.keygenData.d = (rotateHalves s.seq.round.toNat s.keygenHalves).2 := rfl
@[simp] theorem keygenData_ks : s.keygenData.ks = s.ks.set s.seq.round.toFin (subkeyOf (rotateHalves s.seq.round.toNat s.keygenHalves)) := rfl
@[simp] theorem keygenData_l : s.keygenData.l = s.l := rfl
@[simp] theorem keygenData_r : s.keygenData.r = s.r := rfl
@[simp] theorem keygenData_iv : s.keygenData.iv = s.iv := rfl
@[simp] theorem keygenData_csave : s.keygenData.csave = s.csave := rfl
@[simp] theorem keygenData_op : s.keygenData.op = s.op := rfl
@[simp] theorem keygenData_nlen : s.keygenData.nlen = s.nlen := rfl
@[simp] theorem keygenData_nvlen : s.keygenData.nvlen = s.nvlen := rfl
@[simp] theorem keygenData_dirn : s.keygenData.dirn = s.dirn := rfl
@[simp] theorem keygenData_mode : s.keygenData.mode = s.mode := rfl
@[simp] theorem keygenData_nblk : s.keygenData.nblk = s.nblk := rfl
@[simp] theorem keygenData_nplen : s.keygenData.nplen = s.nplen := rfl
@[simp] theorem keygenData_rlen : s.keygenData.rlen = s.rlen := rfl
@[simp] theorem keygenData_vok : s.keygenData.vok = s.vok := rfl
@[simp] theorem keygenData_epend : s.keygenData.epend = s.epend := rfl
@[simp] theorem keygenData_mbuf : s.keygenData.mbuf = s.mbuf := rfl
@[simp] theorem keygenData_vbuf : s.keygenData.vbuf = s.vbuf := rfl
@[simp] theorem keygenData_draws : s.keygenData.draws = s.draws := rfl
@[simp] theorem keygenData_prog : s.keygenData.prog = s.prog := rfl
@[simp] theorem keygenData_sched : s.keygenData.sched = s.sched := rfl
@[simp] theorem keygenData_replies : s.keygenData.replies = s.replies := rfl

/-! ### State.loadData -/

@[simp] theorem loadData_ie (blk : Block) : (s.loadData blk).ie = s.ie := rfl
@[simp] theorem loadData_busy (blk : Block) : (s.loadData blk).busy = s.busy := rfl
@[simp] theorem loadData_done (blk : Block) : (s.loadData blk).done = s.done := rfl
@[simp] theorem loadData_verifyOk (blk : Block) : (s.loadData blk).verifyOk = s.verifyOk := rfl
@[simp] theorem loadData_ksv (blk : Block) : (s.loadData blk).ksv = s.ksv := rfl
@[simp] theorem loadData_wdrop (blk : Block) : (s.loadData blk).wdrop = s.wdrop := rfl
@[simp] theorem loadData_key0Set (blk : Block) : (s.loadData blk).key0Set = s.key0Set := rfl
@[simp] theorem loadData_key1Set (blk : Block) : (s.loadData blk).key1Set = s.key1Set := rfl
@[simp] theorem loadData_errcode (blk : Block) : (s.loadData blk).errcode = s.errcode := rfl
@[simp] theorem loadData_len (blk : Block) : (s.loadData blk).len = s.len := rfl
@[simp] theorem loadData_outlen (blk : Block) : (s.loadData blk).outlen = s.outlen := rfl
@[simp] theorem loadData_vlen (blk : Block) : (s.loadData blk).vlen = s.vlen := rfl
@[simp] theorem loadData_keyreg (blk : Block) : (s.loadData blk).keyreg = s.keyreg := rfl
@[simp] theorem loadData_seq (blk : Block) : (s.loadData blk).seq = s.seq := rfl
@[simp] theorem loadData_c (blk : Block) : (s.loadData blk).c = s.c := rfl
@[simp] theorem loadData_d (blk : Block) : (s.loadData blk).d = s.d := rfl
@[simp] theorem loadData_ks (blk : Block) : (s.loadData blk).ks = s.ks := rfl
@[simp] theorem loadData_l (blk : Block) : (s.loadData blk).l = (splitBlock (s.loadInput blk)).1 := rfl
@[simp] theorem loadData_r (blk : Block) : (s.loadData blk).r = (splitBlock (s.loadInput blk)).2 := rfl
@[simp] theorem loadData_iv (blk : Block) : (s.loadData blk).iv = s.loadIV := rfl
@[simp] theorem loadData_csave (blk : Block) : (s.loadData blk).csave = if s.mode = .cbcd then blk else s.csave := rfl
@[simp] theorem loadData_op (blk : Block) : (s.loadData blk).op = s.op := rfl
@[simp] theorem loadData_nlen (blk : Block) : (s.loadData blk).nlen = s.nlen := rfl
@[simp] theorem loadData_nvlen (blk : Block) : (s.loadData blk).nvlen = s.nvlen := rfl
@[simp] theorem loadData_dirn (blk : Block) : (s.loadData blk).dirn = s.dirn := rfl
@[simp] theorem loadData_mode (blk : Block) : (s.loadData blk).mode = s.mode := rfl
@[simp] theorem loadData_nblk (blk : Block) : (s.loadData blk).nblk = s.nblk := rfl
@[simp] theorem loadData_nplen (blk : Block) : (s.loadData blk).nplen = s.nplen := rfl
@[simp] theorem loadData_rlen (blk : Block) : (s.loadData blk).rlen = s.rlen := rfl
@[simp] theorem loadData_vok (blk : Block) : (s.loadData blk).vok = s.vok := rfl
@[simp] theorem loadData_epend (blk : Block) : (s.loadData blk).epend = s.epend := rfl
@[simp] theorem loadData_mbuf (blk : Block) : (s.loadData blk).mbuf = s.mbuf := rfl
@[simp] theorem loadData_vbuf (blk : Block) : (s.loadData blk).vbuf = s.vbuf := rfl
@[simp] theorem loadData_draws (blk : Block) : (s.loadData blk).draws = s.draws := rfl
@[simp] theorem loadData_prog (blk : Block) : (s.loadData blk).prog = s.prog := rfl
@[simp] theorem loadData_sched (blk : Block) : (s.loadData blk).sched = s.sched := rfl
@[simp] theorem loadData_replies (blk : Block) : (s.loadData blk).replies = s.replies := rfl

/-! ### State.padData -/

@[simp] theorem padData_ie : s.padData.ie = s.ie := rfl
@[simp] theorem padData_busy : s.padData.busy = s.busy := rfl
@[simp] theorem padData_done : s.padData.done = s.done := rfl
@[simp] theorem padData_verifyOk : s.padData.verifyOk = s.verifyOk := rfl
@[simp] theorem padData_ksv : s.padData.ksv = s.ksv := rfl
@[simp] theorem padData_wdrop : s.padData.wdrop = s.wdrop := rfl
@[simp] theorem padData_key0Set : s.padData.key0Set = s.key0Set := rfl
@[simp] theorem padData_key1Set : s.padData.key1Set = s.key1Set := rfl
@[simp] theorem padData_errcode : s.padData.errcode = s.errcode := rfl
@[simp] theorem padData_len : s.padData.len = s.len := rfl
@[simp] theorem padData_outlen : s.padData.outlen = s.outlen := rfl
@[simp] theorem padData_vlen : s.padData.vlen = s.vlen := rfl
@[simp] theorem padData_keyreg : s.padData.keyreg = s.keyreg := rfl
@[simp] theorem padData_seq : s.padData.seq = s.seq := rfl
@[simp] theorem padData_c : s.padData.c = s.c := rfl
@[simp] theorem padData_d : s.padData.d = s.d := rfl
@[simp] theorem padData_ks : s.padData.ks = s.ks := rfl
@[simp] theorem padData_l : s.padData.l = s.l := rfl
@[simp] theorem padData_r : s.padData.r = s.r := rfl
@[simp] theorem padData_iv : s.padData.iv = s.iv := rfl
@[simp] theorem padData_csave : s.padData.csave = s.csave := rfl
@[simp] theorem padData_op : s.padData.op = s.op := rfl
@[simp] theorem padData_nlen : s.padData.nlen = s.nlen := rfl
@[simp] theorem padData_nvlen : s.padData.nvlen = s.nvlen := rfl
@[simp] theorem padData_dirn : s.padData.dirn = s.dirn := rfl
@[simp] theorem padData_mode : s.padData.mode = s.mode := rfl
@[simp] theorem padData_nblk : s.padData.nblk = s.nblk := rfl
@[simp] theorem padData_nplen : s.padData.nplen = BitVec.ofNat 32 s.paddedLen := rfl
@[simp] theorem padData_rlen : s.padData.rlen = BitVec.ofNat 32 s.paddedLen := rfl
@[simp] theorem padData_vok : s.padData.vok = s.vok := rfl
@[simp] theorem padData_epend : s.padData.epend = s.epend := rfl
@[simp] theorem padData_mbuf : s.padData.mbuf = s.mbuf.writeList s.nlen.toNat (padTail s.nlen.toNat) := rfl
@[simp] theorem padData_vbuf : s.padData.vbuf = s.vbuf := rfl
@[simp] theorem padData_draws : s.padData.draws = s.draws := rfl
@[simp] theorem padData_prog : s.padData.prog = s.prog := rfl
@[simp] theorem padData_sched : s.padData.sched = s.sched := rfl
@[simp] theorem padData_replies : s.padData.replies = s.replies := rfl

end Sys2Proof.Machine.Laws
end

