-- ==== Sys2Proof/Laws/Ops.lean ====
section
/-!
SUPPORT. What the shared operations can do, once for each: acceptance, host accesses, and whose turn a step is.
-/

namespace Sys2Proof.Machine.Laws

/-! ### Configuration -/

/-- N_BUF is a multiple of 8 from 16 to 4096 (00_scope.md R6). -/
theorem nBuf_bounds : Config.nBuf % 8 = 0 ∧ 16 ≤ Config.nBuf ∧ Config.nBuf ≤ 4096 := by
  have h := Config.extraBlocks.isLt
  unfold Config.nBuf
  omega

/-! ### Acceptance -/

theorem firstError_eq_none {cs : List Check} : firstError cs = none ↔ ∀ c ∈ cs, c.1 = false := by
  induction cs with
  | nil => simp [firstError]
  | cons c cs ih =>
    obtain ⟨b, e⟩ := c
    cases b <;> simp [firstError, ih]

theorem firstError_mem {cs : List Check} {e : ErrCode} (h : firstError cs = some e) : (true, e) ∈ cs := by
  induction cs with
  | nil => simp [firstError] at h
  | cons c cs ih =>
    obtain ⟨b, e'⟩ := c
    cases b <;> simp_all [firstError]

theorem submit_busy {s : State} (h : s.busy = true) (i : Instr) (cs : List Check) (k : Latch) :
    s.submit i cs k = s.dropWrite := by
  simp [State.submit, h]

/-- A CMD write of a command: dropped, rejected by one of its checks, or started (60_exceptions.md R133). -/
theorem submit_cases (s : State) (i : Instr) (cs : List Check) (k : Latch) :
    (s.busy = true ∧ s.submit i cs k = s.dropWrite) ∨
    (s.busy = false ∧ ∃ e, firstError cs = some e ∧ (true, e) ∈ cs ∧ s.submit i cs k = s.clearResults.reject e) ∨
    (s.busy = false ∧ firstError cs = none ∧ (∀ c ∈ cs, c.1 = false) ∧
      s.submit i cs k = s.clearResults.start i k) := by
  cases hb : s.busy with
  | true => exact .inl ⟨rfl, submit_busy hb i cs k⟩
  | false =>
    cases he : firstError cs with
    | some e => exact .inr (.inl ⟨rfl, e, rfl, firstError_mem he, by simp [State.submit, hb, he]⟩)
    | none => exact .inr (.inr ⟨rfl, rfl, firstError_eq_none.1 he, by simp [State.submit, hb, he]⟩)

/-- A CMD write of an illegal word: dropped or rejected (60_exceptions.md R133). -/
theorem submitIllegal_cases (s : State) :
    (s.busy = true ∧ s.submitIllegal = s.dropWrite) ∨
    (s.busy = false ∧ s.submitIllegal = s.clearResults.reject .badCommand) := by
  cases hb : s.busy <;> simp [State.submitIllegal, hb]

theorem whenIdle_cases (s t : State) :
    (s.busy = true ∧ s.whenIdle t = s.dropWrite) ∨ (s.busy = false ∧ s.whenIdle t = t) := by
  cases hb : s.busy <;> simp [State.whenIdle, hb]

/-- Every command answers a next state in every state. -/
theorem exec_next (i : Instr) (s : State) : ∃ t, exec i s = .next t := by
  cases i <;> exact ⟨_, rfl⟩

/-! ### Reads -/

/-- A read of a host leaves everything but the reply and the count of draws (20_memory.md R56). -/
theorem readPlace_eq (p : Place) (s : State) :
    ∃ v n, readPlace p s = { s with replies := v :: s.replies, draws := n } := by
  have hi : ∀ v, ∃ w n, s.replyIdle v = { s with replies := w :: s.replies, draws := n } := by
    intro v
    cases hb : s.busy
    · exact ⟨v, s.draws, by simp [State.replyIdle, hb, State.reply]⟩
    · exact ⟨Config.busyRead s.draws, s.draws + 1, by simp [State.replyIdle, hb, State.reply]⟩
  cases p <;> first | exact hi _ | exact ⟨_, s.draws, rfl⟩ | exact ⟨_, s.draws + 1, rfl⟩

/-! ### Writes -/

/-- What a host write of one word can do. -/
theorem writePlace_cases {p : Place} {v : Word} {s t : State} (h : writePlace p v s = .next t) :
    t = s ∨ t = s.writeCtrl v ∨ t = s.writeStatus v ∨ (s.busy = true ∧ t = s.dropWrite) ∨
    (s.busy = false ∧
      (t = { s with len := v } ∨ t = { s with vlen := v } ∨ t = s.setKey0 v ∨ t = s.setKey1 v ∨
        (∃ a, p = .mbuf a ∧ t = { s with mbuf := s.mbuf.writeBytes a 4 v }) ∨
        (∃ a, p = .vbuf a ∧ t = { s with vbuf := s.vbuf.writeBytes a 4 v }))) ∨
    (p = .cmd ∧ cmdWrite v s = .next t) := by
  have hw : ∀ u, s.whenIdle u = t → (s.busy = true ∧ t = s.dropWrite) ∨ (s.busy = false ∧ t = u) := by
    intro u hu
    rcases whenIdle_cases s u with ⟨hb, he⟩ | ⟨hb, he⟩
    · exact .inl ⟨hb, by rw [← hu, he]⟩
    · exact .inr ⟨hb, by rw [← hu, he]⟩
  cases p
  case cmd => exact .inr (.inr (.inr (.inr (.inr ⟨rfl, h⟩))))
  case mbuf a => rcases hw _ (Host.Outcome.next.inj h) with h | ⟨hb, h⟩ <;> simp_all
  case vbuf a => rcases hw _ (Host.Outcome.next.inj h) with h | ⟨hb, h⟩ <;> simp_all
  case len => rcases hw _ (Host.Outcome.next.inj h) with h | h <;> tauto
  case vlen => rcases hw _ (Host.Outcome.next.inj h) with h | h <;> tauto
  case key0 => rcases hw _ (Host.Outcome.next.inj h) with h | h <;> tauto
  case key1 => rcases hw _ (Host.Outcome.next.inj h) with h | h <;> tauto
  all_goals simp [← Host.Outcome.next.inj h]

/-- A host write of a word never faults and is never refused: the refusals are of the access, not of the word. -/
theorem writePlace_next (p : Place) (v : Word) (s : State) : ∃ t, writePlace p v s = .next t := by
  cases p
  case cmd =>
    simp only [writePlace, cmdWrite]
    cases decode v with
    | ok i => exact exec_next i s
    | illegal e => exact ⟨_, rfl⟩
  all_goals exact ⟨_, rfl⟩

/-- What a CMD write can do: the decoded command's meaning, or a rejection or drop of an illegal word. -/
theorem cmdWrite_cases {v : Word} {s t : State} (h : cmdWrite v s = .next t) :
    (∃ i, decode v = .ok i ∧ exec i s = .next t) ∨ ((∃ e, decode v = .illegal e) ∧ t = s.submitIllegal) := by
  unfold cmdWrite at h
  cases hd : decode v with
  | ok i =>
    rw [hd] at h
    exact .inl ⟨i, rfl, h⟩
  | illegal e =>
    rw [hd] at h
    exact .inr ⟨⟨e, rfl⟩, by simpa using h.symm⟩

/-! ### Places -/

theorem registerPlace_not_buffer (n a : Nat) : registerPlace n ≠ .mbuf a ∧ registerPlace n ≠ .vbuf a := by
  unfold registerPlace
  split <;> simp

/-- A buffer word the host can name at an aligned offset lies inside the buffer (20_memory.md R49). -/
theorem placeOf_buffer {off : Nat} {a : Nat} (ha : alignedOffset off = true)
    (h : placeOf off = .mbuf a ∨ placeOf off = .vbuf a) : a % 4 = 0 ∧ a + 4 ≤ Config.nBuf := by
  have hb := nBuf_bounds
  have h4 : off % 4 = 0 := by simpa [alignedOffset] using ha
  have hr := registerPlace_not_buffer off a
  simp only [placeOf] at h
  split_ifs at h
  · exact absurd h (by simp [hr])
  all_goals simp at h
  all_goals omega

/-! ### Accesses and turns -/

/-- A host access takes effect exactly when it is 32 bits wide and aligned (20_memory.md R55). -/
theorem accessCheck_none {w : Width} {off : Nat} :
    accessCheck w off = none ↔ w = .word ∧ alignedOffset off = true := by
  cases w <;> simp [accessCheck, alignedOffset]

theorem accessCheck_some {w : Width} {off : Nat} {q : Refusal} (h : accessCheck w off = some q) :
    q = .subWordAccess ∨ q = .unalignedAccess := by
  cases w <;> simp_all [accessCheck]

/-- What a host access can do: a write of a word, or a read that leaves everything but the reply, the count of draws and,
for a poll, the host's list. -/
theorem hostAccess_cases {h : HostOp} {s t : State} (ht : hostAccess h s = .next t) :
    (∃ off v, h = .write .word off v ∧ alignedOffset off = true ∧ writePlace (placeOf off) v s = .next t) ∨
    (∃ v n p, t = { s with replies := v :: s.replies, draws := n, prog := p }) := by
  cases h with
  | write w off v =>
    simp only [hostAccess] at ht
    cases hc : accessCheck w off with
    | some q => simp [hc] at ht
    | none =>
      obtain ⟨rfl, ha⟩ := accessCheck_none.1 hc
      rw [hc] at ht
      exact .inl ⟨off, v, rfl, ha, ht⟩
  | read w off =>
    simp only [hostAccess] at ht
    cases hc : accessCheck w off with
    | some q => simp [hc] at ht
    | none =>
      rw [hc] at ht
      obtain ⟨v, n, hv⟩ := readPlace_eq (placeOf off) s
      refine .inr ⟨v, n, s.prog, ?_⟩
      rw [hv] at ht
      simpa using ht.symm
  | poll off mask val =>
    simp only [hostAccess] at ht
    cases hc : accessCheck .word off with
    | some q => simp [hc] at ht
    | none =>
      rw [hc] at ht
      obtain ⟨v, n, hv⟩ := readPlace_eq (placeOf off) s
      rw [hv] at ht
      unfold pollAgain at ht
      split_ifs at ht
      · exact .inr ⟨v, n, s.prog, by simpa using ht.symm⟩
      · exact .inr ⟨v, n, .poll off mask val :: s.prog, by simpa using ht.symm⟩

/-- A host access is refused only for its width or its alignment, and never faults (20_memory.md R55, 60_exceptions.md
R132). -/
theorem hostAccess_stops {h : HostOp} {s : State} :
    (∀ f, hostAccess h s ≠ .fault f) ∧
    (∀ q, hostAccess h s = .refused q → q = .subWordAccess ∨ q = .unalignedAccess) := by
  cases h with
  | write w off v =>
    simp only [hostAccess]
    cases hc : accessCheck w off with
    | some q => simpa using accessCheck_some hc
    | none =>
      obtain ⟨t, ht⟩ := writePlace_next (placeOf off) v s
      simp [ht]
  | read w off =>
    simp only [hostAccess]
    cases hc : accessCheck w off with
    | some q => simpa using accessCheck_some hc
    | none => simp
  | poll off mask val =>
    simp only [hostAccess]
    cases hc : accessCheck .word off with
    | some q => simpa using accessCheck_some hc
    | none => simp

/-- What a step can do: the host idles or makes its next access, the engine makes a micro-step, or the machine is reset. -/
theorem step_cases (s : State) :
    ∃ sch, step s = hostStep { s with sched := sch } ∨ step s = engineStep { s with sched := sch } ∨
      (step s = .next (State.resetEvent { s with sched := sch }) ∧ s.sched = .reset :: sch) := by
  cases hs : s.sched with
  | nil =>
    have he : { s with sched := [] } = s := by cases s; simp_all
    have hst : step s = turnStep s.defaultTurn s := by simp [step, scheduledStep, hs]
    refine ⟨[], ?_⟩
    rw [hst, he]
    rcases Bool.eq_false_or_eq_true s.busy with hb | hb
    · exact .inr (.inl (by simp [State.defaultTurn, hb, turnStep]))
    · exact .inl (by simp [State.defaultTurn, hb, turnStep])
  | cons t rest =>
    have hst : step s = turnStep t { s with sched := rest } := by simp [step, scheduledStep, hs]
    refine ⟨rest, ?_⟩
    cases t
    · exact .inl hst
    · exact .inr (.inl hst)
    · exact .inr (.inr ⟨hst, rfl⟩)

/-! ### Host programs -/

/-- Word w of a FILL: bytes 4w to 4w + 3 at offset + 4w, missing bytes 0x00, and no word past the last byte
(30_encoding.md R73). -/
theorem fillOps_getElem? (off : Nat) (bs : List Byte) (w : Nat) :
    (fillOps off bs)[w]? = if 4 * w < bs.length then
      some (WR (off + 4 * w) (bs.getD (4 * w) 0#8 ++ bs.getD (4 * w + 1) 0#8 ++ bs.getD (4 * w + 2) 0#8 ++
        bs.getD (4 * w + 3) 0#8)) else none := by
  induction off, bs using fillOps.induct generalizing w with
  | case1 off => simp [fillOps]
  | case2 off b0 => cases w <;> simp [fillOps]
  | case3 off b0 b1 => cases w <;> simp [fillOps]; omega
  | case4 off b0 b1 b2 => cases w <;> simp [fillOps]; omega
  | case5 off b0 b1 b2 b3 rest ih =>
    cases w with
    | zero => simp [fillOps]
    | succ w =>
      have h : 4 * (w + 1) < (b0 :: b1 :: b2 :: b3 :: rest).length ↔ 4 * w < rest.length := by
        simp only [List.length_cons]; omega
      have e : off + 4 + 4 * w = off + 4 * (w + 1) := by omega
      have e' : 4 * (w + 1) = 4 * w + 1 + 1 + 1 + 1 := by omega
      simp only [fillOps, List.getElem?_cons_succ, ih, h, e]
      simp [e']

end Sys2Proof.Machine.Laws
end

