-- ==== Sys2Proof/Laws/Engine.lean ====
section
/-!
SUPPORT. What each micro-step of the engine can do, once for each: if it answers a next state, then which. The successor
state is given as one record update, so that its fields follow by simp.
-/

namespace Sys2Proof.Machine.Laws

/-! ### The micro-steps -/

/-- KEYGEN step r: to the next round, or, after round 15, to the phase the opcode names (41_key_schedule.md R93). -/
theorem keygenStep_cases {s t : State} (h : keygenStep s = .next t) :
    (s.seq.round.toNat < 15 ∧ t = s.keygenData.goto .keygen 0#16 (s.seq.round + 1#4)) ∨
    (s.seq.round.toNat = 15 ∧ ∃ p, phaseAfterKeygen s.op = some p ∧
      t = State.goto { s.keygenData with ksv := true } p 0#16 0#4) := by
  unfold keygenStep at h
  split_ifs at h with hr
  · exact .inl ⟨hr, (Host.Outcome.next.inj h).symm⟩
  · have := s.seq.round.isLt
    cases hp : phaseAfterKeygen s.op with
    | none => simp [hp] at h
    | some p =>
      rw [hp] at h
      exact .inr ⟨by omega, p, rfl, (Host.Outcome.next.inj h).symm⟩

theorem loadStep_cases {s t : State} (h : loadStep s = .next t) :
    8 * s.seq.block.toNat + 8 ≤ Config.nBuf ∧
      t = (s.loadData (s.mbuf.readBlock s.seq.block.toNat)).goto .round s.seq.block 0#4 := by
  unfold loadStep at h
  split_ifs at h with hr
  exact ⟨hr, (Host.Outcome.next.inj h).symm⟩

/-- ROUND step r: L and R of one more round, and to the next round or to STORE (43_block_cipher.md R108). -/
theorem roundStep_eq (s : State) :
    roundStep s = .next { s with
      l := (feistelRound Config.twist (roundKey s.ks s.dirn s.seq.round) (s.l, s.r)).1
      r := (feistelRound Config.twist (roundKey s.ks s.dirn s.seq.round) (s.l, s.r)).2
      seq := if s.seq.round.toNat < 15 then { phase := .round, block := s.seq.block, round := s.seq.round + 1#4 }
        else { phase := .store, block := s.seq.block, round := 0#4 } } := by
  unfold roundStep
  split_ifs <;> rfl

theorem storeStep_cases {s t : State} (h : storeStep s = .next t) :
    8 * s.seq.block.toNat + 8 ≤ Config.nBuf ∧
      t = { s with mbuf := s.mbuf.writeBlock s.seq.block.toNat s.storeOutput, iv := s.storeIV, seq := s.storeNext } := by
  unfold storeStep at h
  split_ifs at h with hr
  exact ⟨hr, (Host.Outcome.next.inj h).symm⟩

theorem storeNext_cases (s : State) :
    (s.seq.block.toNat + 1 < s.nblk.toNat ∧
      s.storeNext = { phase := .load, block := s.seq.block + 1#16, round := 0#4 }) ∨
    (s.nblk.toNat ≤ s.seq.block.toNat + 1 ∧ (s.op = opcode .decrypt ∨ s.op = opcode .verify) ∧
      s.storeNext = { phase := .unpad, block := s.seq.block, round := 0#4 }) ∨
    (s.nblk.toNat ≤ s.seq.block.toNat + 1 ∧ ¬(s.op = opcode .decrypt ∨ s.op = opcode .verify) ∧
      s.storeNext = { phase := .finish, block := s.seq.block, round := 0#4 }) := by
  unfold State.storeNext
  split_ifs with h1 h2
  · exact .inl ⟨h1, rfl⟩
  · exact .inr (.inl ⟨by omega, h2, rfl⟩)
  · exact .inr (.inr ⟨by omega, h2, rfl⟩)

theorem padStep_cases {s t : State} (h : padStep s = .next t) :
    s.paddedLen ≤ Config.nBuf ∧
    ((s.op = opcode .encrypt ∧
      t = State.goto { s.padData with nblk := BitVec.ofNat 16 (s.paddedLen / 8) } .load 0#16 0#4) ∨
     (s.op ≠ opcode .encrypt ∧ t = State.goto { s.padData with nblk := 0#16 } .finish 0#16 0#4)) := by
  unfold padStep at h
  split_ifs at h with h1 h2
  · exact ⟨h1, .inl ⟨h2, (Host.Outcome.next.inj h).symm⟩⟩
  · exact ⟨h1, .inr ⟨h2, (Host.Outcome.next.inj h).symm⟩⟩

theorem unpadStep_cases {s t : State} (h : unpadStep s = .next t) :
    s.nlen.toNat ≤ Config.nBuf ∧
    ((s.zeroTail = s.nlen.toNat ∧ t = s.raise .padUnderflow) ∨
     (s.zeroTail < s.nlen.toNat ∧
      t = State.goto { s with rlen := BitVec.ofNat 32 (s.nlen.toNat - s.zeroTail - 1) }
        (if s.op = opcode .verify then .compare else .finish) s.seq.block 0#4)) := by
  have hz : s.zeroTail ≤ s.nlen.toNat := (trailingZeros_spec s.mbuf s.nlen.toNat).1
  unfold unpadStep at h
  by_cases h1 : s.nlen.toNat ≤ Config.nBuf
  · rw [if_pos h1] at h
    by_cases h2 : s.nlen.toNat < s.zeroTail + 1
    · rw [if_pos h2] at h
      exact ⟨h1, .inl ⟨by omega, (Host.Outcome.next.inj h).symm⟩⟩
    · rw [if_neg h2] at h
      exact ⟨h1, .inr ⟨by omega, (Host.Outcome.next.inj h).symm⟩⟩
  · simp [h1] at h

theorem compareStep_cases {s t : State} (h : compareStep s = .next t) :
    (s.rlen ≠ s.nvlen ∨ s.rlen.toNat ≤ Config.nBuf) ∧
      t = State.goto { s with vok := s.compareResult } .finish s.seq.block 0#4 := by
  unfold compareStep at h
  split_ifs at h with hr
  exact ⟨hr, (Host.Outcome.next.inj h).symm⟩

/-- The two ways an engine micro-step can stop, neither of them met in a run (60_exceptions.md R132). -/
theorem engineStep_stops {s : State} :
    (∀ q, engineStep s ≠ .refused q) ∧
    (∀ f, engineStep s = .fault f →
      (f = .noNextPhase ∧ s.seq.phase = .keygen ∧ s.seq.round.toNat = 15 ∧ phaseAfterKeygen s.op = none) ∨
      (f = .bufferRange ∧
        (((s.seq.phase = .load ∨ s.seq.phase = .store) ∧ Config.nBuf < 8 * s.seq.block.toNat + 8) ∨
         (s.seq.phase = .pad ∧ Config.nBuf < s.paddedLen) ∨ (s.seq.phase = .unpad ∧ Config.nBuf < s.nlen.toNat) ∨
         (s.seq.phase = .compare ∧ s.rlen = s.nvlen ∧ Config.nBuf < s.rlen.toNat)))) := by
  have hr := s.seq.round.isLt
  unfold engineStep
  cases hp : s.seq.phase
  case idle => simp
  case finish => simp [finishStep]
  case round => simp [roundStep_eq]
  case keygen =>
    simp only [keygenStep]
    by_cases h1 : s.seq.round.toNat < 15
    · simp [h1]
    · rw [if_neg h1]
      cases hq : phaseAfterKeygen s.op <;> simp
      omega
  case load =>
    simp only [loadStep]
    split_ifs <;> simp
    omega
  case store =>
    simp only [storeStep]
    split_ifs <;> simp
    omega
  case pad =>
    simp only [padStep]
    split_ifs <;> simp
    omega
  case unpad =>
    simp only [unpadStep]
    split_ifs <;> simp
    omega
  case compare =>
    simp only [compareStep]
    split_ifs with h
    · simp
    · push Not at h
      refine ⟨by simp, fun f hf => .inr ⟨(Host.Outcome.fault.inj hf).symm, .inr (.inr (.inr ⟨trivial, h⟩))⟩⟩

/-! ### Runs of the engine -/

@[simp] theorem engineRun_zero (s : State) : engineRun 0 s = .next s := rfl

/-- A run of the engine: one micro-step and the rest of the run. -/
theorem engineRun_succ {k : Nat} {s u : State} :
    engineRun (k + 1) s = .next u ↔ ∃ t, engineStep s = .next t ∧ engineRun k t = .next u := by
  simp only [engineRun]
  cases engineStep s <;> simp

/-- A run of the engine is a run after a run. -/
theorem engineRun_add {j k : Nat} {s t u : State} (h1 : engineRun j s = .next t) (h2 : engineRun k t = .next u) :
    engineRun (j + k) s = .next u := by
  induction j generalizing s with
  | zero =>
    obtain rfl : s = t := by simpa using h1
    simpa using h2
  | succ j ih =>
    obtain ⟨v, hv, hj⟩ := engineRun_succ.1 h1
    rw [Nat.add_right_comm]
    exact engineRun_succ.2 ⟨v, hv, ih hj⟩

/-- With the bus quiet, a step while a command runs is a micro-step of the engine (20_memory.md R60). -/
theorem step_of_busy {s : State} (hb : s.busy = true) (hs : s.sched = []) : step s = engineStep s := by
  simp [step, scheduledStep, hs, State.defaultTurn, hb, turnStep]

end Sys2Proof.Machine.Laws
end

