-- ==== Sys2Proof/Laws/PerInstr.lean ====
section
/-!
SUPPORT. What holds of every command as syntax, one lemma per command.
-/

namespace Sys2Proof.Laws.Codec

/-- The command is well formed, its command word is a valid one (30_encoding.md R65, R66), and the word carries the
command's opcode in [3:0]. -/
def Statement (i : Instr) : Prop :=
  i.wf = true ∧ Word.cmdWf (encode i) = true ∧ (encode i).extractLsb' 0 4 = opcode i

theorem keygen : Statement .keygen := by unfold Statement; decide
theorem blockEnc : Statement .blockEnc := by unfold Statement; decide
theorem blockDec : Statement .blockDec := by unfold Statement; decide
theorem pad : Statement .pad := by unfold Statement; decide
theorem unpad : Statement .unpad := by unfold Statement; decide
theorem encrypt : Statement .encrypt := by unfold Statement; decide
theorem decrypt : Statement .decrypt := by unfold Statement; decide
theorem verify : Statement .verify := by unfold Statement; decide

end Sys2Proof.Laws.Codec
end

