-- ==== Sys2Proof/Tests/Slice0.lean ====
section
/-!
SUPPORT. Tests: expected values are the spec's own (30_encoding.md R65 to R69, 95_test_vectors.md L2), worked by hand from
the rules where it says so. After them, one witness for the hypotheses of each statement.
-/

namespace Sys2Proof.Machine.Tests

open Sys2Proof.Machine.Laws

/-! ### WellFormed refuses -/

/-- R65: a bit of [31:4] is set. -/
theorem test_wf_refuses_mbz : Word.mbzOk 0x00000011#32 = false ∧ Word.cmdWf 0x80000001#32 = false := by decide

/-- R66: w[3:0] is 0x0, 0x9 or 0xF. -/
theorem test_wf_refuses_op :
    Word.opOk 0x00000000#32 = false ∧ Word.opOk 0x00000009#32 = false ∧ Word.cmdWf 0x0000000F#32 = false := by decide

/-- R55: 8-bit and 16-bit accesses. -/
theorem test_wf_refuses_subword :
    (HostOp.write .byte 0x004 0x1#32).wf = false ∧ (HostOp.read .half 0x004).wf = false := by decide

/-- R55: offsets that are no multiple of 4, for each kind of transaction. -/
theorem test_wf_refuses_unaligned :
    (HostOp.write .word 0x005 0x1#32).wf = false ∧ (HostOp.read .word 0x006).wf = false ∧
      (HostOp.poll 0x00D 0x1#32 0x0#32).wf = false := by decide

theorem test_wf_admits :
    (HostOp.write .word 0x3FFC 0x1#32).wf = true ∧ Word.cmdWf 0x00000001#32 = true ∧ Word.cmdWf 0x00000008#32 = true := by
  decide

/-! ### Decoding: words written out from 30_encoding.md R65, R67 -/

/-- OP = 0001 -/
theorem test_decode_keygen : decode 0b00000000000000000000000000000001#32 = .ok .keygen := by decide
/-- OP = 0010 -/
theorem test_decode_blockEnc : decode 0b00000000000000000000000000000010#32 = .ok .blockEnc := by decide
/-- OP = 0011 -/
theorem test_decode_blockDec : decode 0b00000000000000000000000000000011#32 = .ok .blockDec := by decide
/-- OP = 0100 -/
theorem test_decode_pad : decode 0b00000000000000000000000000000100#32 = .ok .pad := by decide
/-- OP = 0101 -/
theorem test_decode_unpad : decode 0b00000000000000000000000000000101#32 = .ok .unpad := by decide
/-- OP = 0110 -/
theorem test_decode_encrypt : decode 0b00000000000000000000000000000110#32 = .ok .encrypt := by decide
/-- OP = 0111 -/
theorem test_decode_decrypt : decode 0b00000000000000000000000000000111#32 = .ok .decrypt := by decide
/-- OP = 1000 -/
theorem test_decode_verify : decode 0b00000000000000000000000000001000#32 = .ok .verify := by decide

/-- R69: the illegal words of L2.8, each with its kind. -/
theorem test_decode_illegal :
    decode 0x00000000#32 = .illegal .opZero ∧ decode 0x00000009#32 = .illegal .opReserved ∧
      decode 0x00000010#32 = .illegal .mustBeZero ∧ decode 0x00000011#32 = .illegal .mustBeZero ∧
      decode 0x80000001#32 = .illegal .mustBeZero := by decide

/-- R65: the command word of VERIFY, bit by bit. -/
theorem test_encode_verify : encode .verify = 0b00000000000000000000000000001000#32 := by decide

/-- The opcode table's rows, and words that are none of them. -/
theorem test_table_words :
    decodeTableWord 32 1 = some .keygen ∧ decodeTableWord 32 8 = some .verify ∧ decodeTableWord 32 0 = none ∧
      decodeTableWord 32 9 = none ∧ decodeTableWord 32 0x11 = none := by decide

/-! ### The datapath -/

/-- R75 and its example. -/
theorem test_getBit :
    getBit [0x80#8, 0x01#8] 0 = some true ∧ getBit [0x80#8, 0x01#8] 15 = some true ∧
      getBit [0x80#8, 0x01#8] 7 = some false := by decide

/-- R76: setBit(00, 3, 5) = 10. -/
theorem test_setBit : setBit [0x00#8] 3 5 = [0x10#8] := by decide

/-- L2.1, R77. -/
theorem test_getBits :
    getBits [0xF0#8, 0x0F#8] 2 6 = some [0xC0#8] ∧ getBits [0xAB#8, 0xCD#8] 4 8 = some [0xBC#8] ∧
      getBits [0x12#8, 0x34#8, 0x56#8, 0x78#8, 0x9A#8, 0xBC#8] 45 3 = some [0x80#8] := by decide

/-- L2.1, R78: the 28-bit strings 8000001 and 0000003. -/
theorem test_concatenateBits :
    concatenateBits [0x80#8, 0x00#8, 0x00#8, 0x10#8] 28 [0x00#8, 0x00#8, 0x00#8, 0x30#8] 28 =
      some [0x80#8, 0x00#8, 0x00#8, 0x10#8, 0x00#8, 0x00#8, 0x03#8] := by decide +kernel

/-- L2.1, R79: a rotation by 29 of 28 bits, on the string and on the buffer that holds it. -/
theorem test_leftRotation :
    rotl 0x1234567#28 29 = 0x2468ACE#28 ∧ rotl 0x8000001#28 2 = 0x0000006#28 ∧
      leftRotation [0x12#8, 0x34#8, 0x56#8, 0x70#8] 28 29 = some [0x24#8, 0x68#8, 0xAC#8, 0xE0#8] := by decide +kernel

/-- R80: source bit 0 (entry 1) appears at output position 39. -/
theorem test_permutation :
    permutation [0x80#8, 0#8, 0#8, 0#8, 0#8, 0#8, 0#8, 0#8] tableIP =
      some [0#8, 0#8, 0#8, 0#8, 0x01#8, 0#8, 0#8, 0#8] := by decide +kernel

/-- R81. -/
theorem test_xor : xorBytes [0xF0#8, 0x0F#8] [0xFF#8, 0x01#8] = some [0x0F#8, 0x0E#8] := by decide

/-- L2.1, R83 and R84. -/
theorem test_initial_permutations :
    permIP 0x0123456789ABCDEF#64 = 0xCC00CCFFF0AAF0AA#64 ∧ permIPInv 0x0123456789ABCDEF#64 = 0xFF330FAA00330FAA#64 := by
  decide +kernel

/-- L2.1, R85 and R86. -/
theorem test_expansion_and_round_permutation :
    permE 0x12345678#32 = 0x0A41A82AC3F0#48 ∧ permP 0x12345678#32 = 0x6E34140E#32 := by decide +kernel

/-- V2.2.1, R87: PC-1 of the key. -/
theorem test_pc1 : permPC1 0x133457799BBCDFF1#64 = 0xF0CCAAF556678F#56 := by decide +kernel

/-- V2.2.1, R91: the first and the last subkey. -/
theorem test_subkeys :
    subkey 0x133457799BBCDFF1#64 0 = 0x1B02EFFC7072#48 ∧ subkey 0x133457799BBCDFF1#64 15 = 0xCB3D8B0E17F5#48 := by
  decide +kernel

/-- The twist tables of PROFILE-X (95_test_vectors.md): the spec's illustration, not the instance's. -/
def profileX : TwistTables where
  ofs k := Fin.ofNat 3 k.val
  pair s := [(SrcPos.five, SrcPos.six), (.six, .seven), (.seven, .five)].getD s.val (.five, .six)

/-- L2.4, tag X: the worked example of R104. -/
theorem test_round_function : roundF profileX 0x12345678#32 0x1B02EFFC7072#48 = 0x0F724390#32 := by decide +kernel

/-- L2.5 T3, tag X: the first block of the "cat" scenario. -/
theorem test_transform :
    transform profileX (Vector.replicate 16 0#48) .enc 0x363421D555555555#64 = 0x00B7DF529769C323#64 := by
  decide +kernel

/-- L2.6. -/
theorem test_padBytes :
    padBytes [0x63#8, 0x61#8, 0x74#8] = [0x63#8, 0x61#8, 0x74#8, 0x80#8, 0x00#8, 0x00#8, 0x00#8, 0x00#8] ∧
      padBytes [] = [0x80#8, 0x00#8, 0x00#8, 0x00#8, 0x00#8, 0x00#8, 0x00#8, 0x00#8] := by decide

/-- L2.6. -/
theorem test_unpadBytes :
    unpadBytes [0x61#8, 0x62#8, 0x00#8, 0x00#8, 0x00#8] = some [0x61#8] ∧ unpadBytes [0x41#8, 0xFF#8] = some [0x41#8] ∧
      unpadBytes [0x00#8, 0x00#8, 0x80#8, 0x00#8] = some [0x00#8, 0x00#8] ∧ unpadBytes [0x00#8, 0x00#8] = none := by decide

/-! ### Commands: L2.8 -/

/-- An idle engine with both key words written (eight bytes 0x01), LEN = 8 and VLEN = 0. -/
def ready : State :=
  { State.reset with key0Set := true, key1Set := true, keyreg := 0x0101010101010101#64, len := 8#32 }

/-- What a step that ends in a next state leaves, read by `f`. -/
def look {α : Type} (f : State → α) : Host.Outcome State Fault Refusal → Option α
  | .next s => some (f s)
  | .fault _ => none
  | .refused _ => none

/-- STATUS, ERRCODE and PROGRESS after a step. -/
def words (s : State) : Word × Word × Word := (s.statusWord, s.errcodeWord, s.progressWord)

/-- "both, KEYGEN, LEN and VLEN FFFFFFFF: accepted": STATUS 0xC1, seq (KEYGEN, 0, 0). -/
theorem test_keygen_accepted :
    look words (exec .keygen { ready with len := 0xFFFFFFFF#32, vlen := 0xFFFFFFFF#32 }) =
      some (0xC1#32, 0#32, 0x10#32) := by decide

/-- "KEY0 only, KEYGEN: rejected": STATUS 0x46, ERRCODE 1. -/
theorem test_keygen_without_key1 :
    look words (exec .keygen { State.reset with key0Set := true }) = some (0x46#32, 1#32, 0#32) := by decide

/-- "both, BLOCK_ENC, LEN FFFFFFFF: accepted"; R110, R133: direction ENC, MODE ECB1. -/
theorem test_blockEnc_accepted :
    look words (exec .blockEnc { ready with len := 0xFFFFFFFF#32 }) = some (0xC1#32, 0#32, 0x10#32) ∧
      look (fun s => (s.dirn, s.mode, s.rlen)) (exec .blockEnc ready) = some (.enc, .ecb1, 8#32) := by decide

/-- "none, BLOCK_ENC: rejected": STATUS 0x06, ERRCODE 1. -/
theorem test_blockEnc_without_key : look words (exec .blockEnc State.reset) = some (0x06#32, 1#32, 0#32) := by decide

/-- R111, R133: as BLOCK_ENC with direction DEC. -/
theorem test_blockDec_accepted :
    look (fun s => (s.op, s.dirn, s.mode)) (exec .blockDec ready) = some (3#4, .dec, .ecb1) ∧
      look words (exec .blockDec ready) = some (0xC1#32, 0#32, 0x10#32) := by decide

/-- A CMD write while BUSY = 1 is dropped (R135): STATUS 0x21, BUSY and WDROP. -/
theorem test_blockDec_while_busy :
    look words (exec .blockDec { State.reset with busy := true }) = some (0x21#32, 0#32, 0#32) := by decide

/-- "none, PAD: accepted": STATUS 0x01, seq (PAD, 0, 0), here with LEN = 3. -/
theorem test_pad_accepted : look words (exec .pad { State.reset with len := 3#32 }) = some (0x01#32, 0#32, 0x20#32) := by
  decide

/-- "none, UNPAD, LEN 0: accepted; PAD_UNDERFLOW at the UNPAD step", then FINISH: ERRCODE 6, STATUS 0x06. -/
theorem test_unpad_underflow :
    look words (exec .unpad State.reset) = some (0x01#32, 0#32, 0x60#32) ∧
      look words (engineRun 2 { State.reset with op := 5#4, busy := true, seq := ⟨.unpad, 0#16, 0#4⟩ }) =
        some (0x06#32, 6#32, 0#32) := by decide

/-- "none, ENCRYPT: rejected": ERRCODE 1. -/
theorem test_encrypt_without_key : look words (exec .encrypt State.reset) = some (0x06#32, 1#32, 0#32) := by decide

/-- R127, R133: an empty plaintext is accepted, NBLK is set later, by PAD. -/
theorem test_encrypt_accepted :
    look (fun s => (s.op, s.mode, s.nblk)) (exec .encrypt { ready with len := 0#32 }) = some (6#4, .cbce, 0#16) := by decide

/-- "none, DECRYPT, LEN C: the key check comes before the length check"; "both, DECRYPT, LEN 7: rejected", ERRCODE 2. -/
theorem test_decrypt_rejected :
    look words (exec .decrypt { State.reset with len := 0xC#32 }) = some (0x06#32, 1#32, 0#32) ∧
      look words (exec .decrypt { ready with len := 7#32 }) = some (0xC6#32, 2#32, 0#32) := by decide

/-- "both, DECRYPT, LEN 8: accepted": STATUS 0xC1; NBLK = 1. -/
theorem test_decrypt_accepted :
    look words (exec .decrypt ready) = some (0xC1#32, 0#32, 0x10#32) ∧
      look (fun s => (s.mode, s.nblk, s.nlen)) (exec .decrypt ready) = some (.cbcd, 1#16, 8#32) := by decide

/-- "both, VERIFY, LEN C, VLEN 41: the LEN checks come before the VLEN check", ERRCODE 2. -/
theorem test_verify_rejected :
    look words (exec .verify { ready with len := 0xC#32, vlen := 0x2000#32 }) = some (0xC6#32, 2#32, 0#32) := by decide

/-- "both, VERIFY, LEN 8, VLEN 0: accepted". -/
theorem test_verify_accepted : look words (exec .verify ready) = some (0xC1#32, 0#32, 0x10#32) := by decide

/-! ### The machine's step -/

/-- R66, R153: the step after withFetchWord is the CMD write: "none, 00000009: rejected", ERRCODE 4, STATUS 0x06. -/
theorem test_step_illegal_word : look words (step (State.reset.withFetchWord 32 9)) = some (0x06#32, 4#32, 0#32) := by
  decide

/-- R17: the word 4 in the first step after reset is PAD: BUSY, seq (PAD, 0, 0). -/
theorem test_step_pad : look words (step (State.reset.withFetchWord 32 4)) = some (0x01#32, 0#32, 0x20#32) := by decide

/-- R93: KEYGEN step 0 of the key 133457799BBCDFF1: C and D of V2.2.1, seq (KEYGEN, 0, 1). -/
theorem test_step_keygen_round0 :
    look (fun s => (s.c, s.d, s.progressWord)) (engineStep { State.reset with
      op := 1#4, busy := true, keyreg := 0x133457799BBCDFF1#64, seq := ⟨.keygen, 0#16, 0#4⟩ }) =
      some (0xE19955F#28, 0xAACCF1E#28, 0x11#32) := by decide +kernel

/-- L2.9: WR 004, FFFFFFFF stores only IE; WR 024 while KEY0_SET = 1 sets STATUS to 0xC0. -/
theorem test_registers :
    look State.ctrlWord (writePlace .ctrl 0xFFFFFFFF#32 State.reset) = some 1#32 ∧
      look State.statusWord (writePlace .key1 0xFFFFFFFF#32 { State.reset with key0Set := true }) = some 0xC0#32 := by
  decide

/-- L2.9: WR 00C, 2 after a rejected command: STATUS 0xC4, ERRCODE still 4. -/
theorem test_acknowledge :
    look words (writePlace .status 2#32 (ready.rejectedWith .badCommand)) = some (0xC4#32, 4#32, 0#32) := by decide

/-- R30, R47: KEY0 holds key bytes 0 to 3. -/
theorem test_key_halves :
    look State.keyreg (writePlace .key0 0x13345779#32 { State.reset with keyreg := 0x00000000FFFFFFFF#64 }) =
      some 0x13345779FFFFFFFF#64 := by decide

/-- R151, R152: a reset event ends a running command without DONE. -/
theorem test_reset_event :
    look words (step { ready with busy := true, ie := true, seq := ⟨.round, 0#16, 3#4⟩, sched := [.reset] }) =
      some (0#32, 0#32, 0#32) := by decide

/-- R73: SETKEY, FILL with a last word that is filled up with zeros, and WAIT. -/
theorem test_pseudo_instructions :
    setKeyOps 0x133457799BBCDFF1#64 = [WR 0x020 0x13345779#32, WR 0x024 0x9BBCDFF1#32] ∧
      fillMbufOps [0x63#8, 0x61#8, 0x74#8, 0x80#8, 0x01#8] = [WR 0x1000 0x63617480#32, WR 0x1004 0x01000000#32] ∧
      commandOp .encrypt = WR 0x008 0x00000006#32 := by decide +kernel

/-- R73: a FILL goes past the end of the block, at 0x4000; R14: the block ends there, so that write leaves the engine. -/
theorem test_fill_past_the_block :
    fillOps 0x3FFC [1#8, 2#8, 3#8, 4#8, 5#8] = [WR 0x3FFC 0x01020304#32, WR 0x4000 0x05000000#32] ∧
      placeOf 0x3FFC = .reserved ∧ placeOf 0x4000 = .outside := by decide +kernel

/-! ### Parameter-independent vectors: for every value of the twist tables -/

theorem twist_uniform_zero (tw : TwistTables) : twist tw 0#48 = 0#32 := by
  have h : twist tw 0#48 = bitsOf 32 fun _ => false := bitsOf_congr fun i hi => by simp [strBit]
  rw [h]
  decide

theorem twist_uniform_one (tw : TwistTables) : twist tw 0xFFFFFFFFFFFF#48 = 0xFFFFFFFF#32 := by
  have h0 : ∀ p : SrcPos, strBit 0xFFFFFFFFFFFF#48 (srcIndex p) = true := fun p => by cases p <;> decide
  have h : twist tw 0xFFFFFFFFFFFF#48 = bitsOf 32 fun _ => true := bitsOf_congr fun i hi => h0 _
  rw [h]
  decide

/-- L2.4, first row. -/
theorem test_roundF_zero (tw : TwistTables) : roundF tw 0x00000000#32 0#48 = 0x00000000#32 := by
  have h : permE 0x00000000#32 ^^^ 0#48 = 0#48 := by decide +kernel
  rw [roundF, h, twist_uniform_zero]
  decide +kernel

/-- L2.4, second row. -/
theorem test_roundF_ones (tw : TwistTables) : roundF tw 0xFFFFFFFF#32 0#48 = 0xFFFFFFFF#32 := by
  have h : permE 0xFFFFFFFF#32 ^^^ 0#48 = 0xFFFFFFFFFFFF#48 := by decide +kernel
  rw [roundF, h, twist_uniform_one]
  decide +kernel

/-- The subkey table of the keys PC-1 reduces to zero (V2.2.3). -/
def zeroKeys : Vector Subkey 16 := Vector.replicate 16 0#48

theorem roundKey_zeroKeys (dir : Dir) (r : BitVec 4) : roundKey zeroKeys dir r = 0#48 := by
  cases dir <;> simp [roundKey, zeroKeys]

theorem test_keySchedule_zero : keySchedule 0x0000000000000000#64 = zeroKeys := by decide +kernel

/-- L2.5 T1. -/
theorem test_transform_ones (tw : TwistTables) :
    transform tw zeroKeys .enc 0xFFFFFFFFFFFFFFFF#64 = 0xAAAAAAAAAAAAAAAA#64 := by
  have h : splitBlock 0xFFFFFFFFFFFFFFFF#64 = (0xFFFFFFFF#32, 0xFFFFFFFF#32) := by decide +kernel
  simp only [transform, h, feistelRounds, feistelRound, roundKey_zeroKeys, test_roundF_ones, test_roundF_zero,
    BitVec.xor_self, BitVec.xor_zero, BitVec.zero_xor]
  decide +kernel

/-- L2.5: the block 55×8 is its own transform. -/
theorem test_transform_fives (tw : TwistTables) :
    transform tw zeroKeys .dec 0x5555555555555555#64 = 0x5555555555555555#64 := by
  have h : splitBlock 0x5555555555555555#64 = (0xFFFFFFFF#32, 0x00000000#32) := by decide +kernel
  simp only [transform, h, feistelRounds, feistelRound, roundKey_zeroKeys, test_roundF_ones, test_roundF_zero,
    BitVec.xor_self, BitVec.xor_zero, BitVec.zero_xor]
  decide +kernel

/-- L2.5: the zero block is its own transform. -/
theorem test_transform_zero (tw : TwistTables) (dir : Dir) : transform tw zeroKeys dir 0x0000000000000000#64 = 0#64 := by
  have h : splitBlock 0x0000000000000000#64 = (0x00000000#32, 0x00000000#32) := by decide +kernel
  simp only [transform, h, feistelRounds, feistelRound, roundKey_zeroKeys, test_roundF_zero, BitVec.xor_zero]
  decide +kernel

/-- V2.7.14: the last 0x55 is dropped as the marker. -/
theorem test_cbcDecrypt_some (tw : TwistTables) :
    cbcDecrypt tw (List.replicate 8 0x00#8) 0#64 = some (List.replicate 7 0x55#8) := by
  have h : toBlocks (List.replicate 8 0x00#8) = [0#64] := by decide
  simp only [cbcDecrypt, cbcDecryptRaw, h, test_keySchedule_zero, cbcDecBlocks, test_transform_zero]
  decide +kernel

/-- V2.7.15: every decrypted byte is zero. -/
theorem test_cbcDecrypt_none (tw : TwistTables) : cbcDecrypt tw (List.replicate 8 0x55#8) 0#64 = none := by
  have h : toBlocks (List.replicate 8 0x55#8) = [0x5555555555555555#64] := by decide
  simp only [cbcDecrypt, cbcDecryptRaw, h, test_keySchedule_zero, cbcDecBlocks, test_transform_fives]
  decide +kernel

/-- V2.7.3, its first block: 55×8 xor the IV is the zero block. -/
theorem test_cbcEncrypt_blocks (tw : TwistTables) :
    cbcEncBlocks tw zeroKeys fixedIV [0x5555555555555555#64] = [0#64] := by
  have h : (0x5555555555555555#64 : Block) ^^^ fixedIV = 0#64 := by decide
  simp only [cbcEncBlocks, h, test_transform_zero]

/-! ### Witnesses: for each statement with hypotheses, a state and operands that meet them all -/

/-- `ready` with LEN = n and VLEN = v. -/
def atLen (n v : Nat) : State := { ready with len := BitVec.ofNat 32 n, vlen := BitVec.ofNat 32 v }

theorem atLen_accepts {n v : Nat} (hn : n ≤ 4096) (hv : v ≤ 4096) (i : Instr) :
    (atLen n v).Accepts i ↔ lengthsOk i n v := by
  have h1 : n % 4294967296 = n := Nat.mod_eq_of_lt (by omega)
  have h2 : v % 4294967296 = v := Nat.mod_eq_of_lt (by omega)
  simp [State.Accepts, State.keyPresent, atLen, ready, State.reset, h1, h2]

/-- Every command is accepted with LEN = 8, VLEN = 0. -/
theorem ready_accepts (i : Instr) : ready.Accepts i := by
  have hb := nBuf_bounds
  have h : (atLen 8 0).Accepts i := by
    rw [atLen_accepts (by omega) (by omega)]
    cases i <;> simp [lengthsOk] <;> omega
  exact h

/-- KEYGEN has just been accepted. -/
def running : State :=
  { ready with busy := true, op := 1#4, nlen := 8#32, mode := .cbce, seq := { phase := .keygen, block := 0#16, round := 0#4 } }

theorem witness_ValidCommandWords :
    decode 0x00000001#32 = .ok .keygen ∧ decode 0x00000008#32 = .ok .verify ∧
      ∃ (w : Word) (s : State), (¬∃ i, decode w = .ok i) ∧ s.busy = false := by
  refine ⟨by decide, by decide, 0x00000009#32, State.reset, ?_, rfl⟩
  rintro ⟨i, h⟩
  cases i <;> revert h <;> decide

theorem witness_DecodeAndEncodeAgree : Instr.verify.wf = true ∧ decode 0x00000008#32 = .ok .verify := by decide

theorem witness_StepRunsDecodedCommand :
    (∃ (s : State) (rest : List HostOp) (sch : List Turn), s.prog = .write .word 0x008 4#32 :: rest ∧
      decode 4#32 = .ok .pad ∧ s.sched = .host :: sch) ∧
    (∃ (s : State) (rest : List HostOp), s.prog = .write .word 0x008 4#32 :: rest ∧ s.sched = [] ∧ s.busy = false) ∧
    tableWord 32 8 = some 8#32 ∧ decode 8#32 = .ok .verify :=
  ⟨⟨{ State.reset with prog := [commandOp .pad], sched := [.host] }, [], [], rfl, by decide, rfl⟩,
    ⟨{ State.reset with prog := [commandOp .pad] }, [], rfl, rfl, rfl⟩, by decide, by decide⟩

theorem witness_StepRunsTheEngine :
    (∃ (s : State) (sch : List Turn), s.sched = .engine :: sch) ∧ (∃ (s : State) (sch : List Turn), s.sched = .host :: sch) ∧
      (∃ (s : State) (sch : List Turn), s.sched = .reset :: sch) ∧ (∃ s : State, s.sched = [] ∧ s.busy = true) ∧
      ∃ s : State, s.sched = [] ∧ s.busy = false :=
  ⟨⟨{ running with sched := [.engine] }, [], rfl⟩, ⟨{ running with sched := [.host] }, [], rfl⟩,
    ⟨{ running with sched := [.reset] }, [], rfl⟩, ⟨running, rfl, rfl⟩, State.reset, rfl, rfl⟩

theorem witness_HostTurnRunsNextTransaction :
    (∃ (s : State) (rest : List HostOp), s.prog = WR 0x004 1#32 :: rest) ∧ (∃ s : State, s.prog = []) ∧ 0x3FFC % 4 = 0 :=
  ⟨⟨{ ready with prog := [WR 0x004 1#32] }, [], rfl⟩, ⟨ready, rfl⟩, rfl⟩

/-- Each command at the ends of the lengths it accepts. -/
theorem witness_AcceptedCommandStarts :
    (∀ i, ready.Accepts i) ∧ (atLen 0 0).Accepts .pad ∧ (atLen (Config.nBuf - 1) 0).Accepts .pad ∧
      (atLen 0 0).Accepts .unpad ∧ (atLen Config.nBuf 0).Accepts .unpad ∧
      (atLen 0 0).Accepts .encrypt ∧ (atLen (Config.nBuf - 1) 0).Accepts .encrypt ∧
      (atLen Config.nBuf 0).Accepts .decrypt ∧ (atLen Config.nBuf Config.nBuf).Accepts .verify := by
  have hb := nBuf_bounds
  refine ⟨ready_accepts, ?_, ?_, ?_, ?_, ?_, ?_, ?_, ?_⟩ <;> rw [atLen_accepts (by omega) (by omega)] <;>
    simp only [lengthsOk] <;> omega

theorem witness_RejectedCommandChangesOnlyStatus : State.reset.busy = false ∧ ¬State.reset.Accepts .keygen :=
  ⟨rfl, fun h => absurd (h.2.1 rfl).1 (by decide)⟩

/-- The five clauses: a key word unset, and the lengths at the least value that each check rejects (4096 is the greatest
N_BUF). -/
theorem witness_AcceptanceChecksInOrder :
    (State.reset.busy = false ∧ needsKey .keygen = true ∧ State.reset.key0Set = false) ∧
    (ready.busy = false ∧ ready.key0Set = true ∧ ready.key1Set = true) ∧
    Config.nBuf - 1 < (atLen Config.nBuf 0).len.toNat ∧ Config.nBuf < (atLen (Config.nBuf + 1) 0).len.toNat ∧
    (atLen 0 0).len.toNat = 0 ∧ (atLen 7 0).len.toNat % 8 ≠ 0 ∧
    ((atLen (Config.nBuf + 8) 0).len.toNat ≠ 0 ∧ (atLen (Config.nBuf + 8) 0).len.toNat % 8 = 0 ∧
      Config.nBuf < (atLen (Config.nBuf + 8) 0).len.toNat) ∧
    ((atLen Config.nBuf (Config.nBuf + 1)).len.toNat ≠ 0 ∧ (atLen Config.nBuf (Config.nBuf + 1)).len.toNat % 8 = 0 ∧
      (atLen Config.nBuf (Config.nBuf + 1)).len.toNat ≤ Config.nBuf ∧
      Config.nBuf < (atLen Config.nBuf (Config.nBuf + 1)).vlen.toNat) := by
  have hb := nBuf_bounds
  refine ⟨⟨rfl, rfl, rfl⟩, ⟨rfl, rfl, rfl⟩, ?_, ?_, ?_, ?_, ?_, ?_⟩ <;> simp only [atLen, BitVec.toNat_ofNat] <;> omega

theorem witness_CommandWhileBusyIsDropped : running.busy = true := rfl

theorem witness_KeygenCompletes : ready.Accepts .keygen := ready_accepts _
theorem witness_BlockEncCompletes : ready.Accepts .blockEnc := ready_accepts _
theorem witness_BlockDecCompletes : ready.Accepts .blockDec := ready_accepts _
theorem witness_PadCompletes : ready.Accepts .pad := ready_accepts _
theorem witness_EncryptCompletes : ready.Accepts .encrypt := ready_accepts _
theorem witness_CommandsFinishInCountedSteps : ready.Accepts .unpad := ready_accepts _
theorem witness_EngineRoundTrip : ready.Accepts .encrypt := ready_accepts _

/-- `ready` under the zero key, with a byte string of eight bytes in MBUF. -/
def withBytes (bs : List Byte) : State := { ready with keyreg := 0#64, mbuf := State.reset.mbuf.writeList 0 bs }

theorem withBytes_accepts (bs : List Byte) (i : Instr) : (withBytes bs).Accepts i := ready_accepts i

theorem withBytes_bytes {bs : List Byte} (h : bs.length = 8) :
    (withBytes bs).mbuf.bytes 0 (withBytes bs).len.toNat = bs := by
  have := bytes_writeList State.reset.mbuf 0 bs
  rw [h] at this
  exact this

/-- Both outcomes of unpad. -/
theorem witness_UnpadCompletes :
    (∃ s : State, s.Accepts .unpad ∧ unpadBytes (s.mbuf.bytes 0 s.len.toNat) = some (List.replicate 7 0x55#8)) ∧
      ∃ s : State, s.Accepts .unpad ∧ unpadBytes (s.mbuf.bytes 0 s.len.toNat) = none :=
  ⟨⟨withBytes (List.replicate 8 0x55#8), withBytes_accepts _ _, by rw [withBytes_bytes rfl]; decide⟩,
    withBytes (List.replicate 8 0x00#8), withBytes_accepts _ _, by rw [withBytes_bytes rfl]; decide⟩

/-- Both outcomes of decryption. -/
theorem witness_DecryptCompletes :
    (∃ s : State, s.Accepts .decrypt ∧
      cbcDecrypt Config.twist (s.mbuf.bytes 0 s.len.toNat) s.keyreg = some (List.replicate 7 0x55#8)) ∧
    ∃ s : State, s.Accepts .decrypt ∧ cbcDecrypt Config.twist (s.mbuf.bytes 0 s.len.toNat) s.keyreg = none :=
  ⟨⟨withBytes (List.replicate 8 0x00#8), withBytes_accepts _ _,
      by rw [withBytes_bytes rfl]; exact test_cbcDecrypt_some Config.twist⟩,
    withBytes (List.replicate 8 0x55#8), withBytes_accepts _ _,
      by rw [withBytes_bytes rfl]; exact test_cbcDecrypt_none Config.twist⟩

theorem witness_VerifyCompletes :
    (∃ s : State, s.Accepts .verify ∧
      cbcDecrypt Config.twist (s.mbuf.bytes 0 s.len.toNat) s.keyreg = some (List.replicate 7 0x55#8)) ∧
    ∃ s : State, s.Accepts .verify ∧ cbcDecrypt Config.twist (s.mbuf.bytes 0 s.len.toNat) s.keyreg = none :=
  ⟨⟨withBytes (List.replicate 8 0x00#8), withBytes_accepts _ _,
      by rw [withBytes_bytes rfl]; exact test_cbcDecrypt_some Config.twist⟩,
    withBytes (List.replicate 8 0x55#8), withBytes_accepts _ _,
      by rw [withBytes_bytes rfl]; exact test_cbcDecrypt_none Config.twist⟩

/-- Two states that agree on the operands alone. -/
theorem witness_ResultDependsOnOperandsOnly :
    ∃ s s' t t' : State, s.Accepts .verify ∧ s'.Accepts .verify ∧ s' ≠ s ∧ s'.keyreg = s.keyreg ∧ s'.len = s.len ∧
      s'.vlen = s.vlen ∧ s'.mbuf = s.mbuf ∧ s'.vbuf = s.vbuf ∧ exec .verify s = .next t ∧ exec .verify s' = .next t' :=
  ⟨ready, { ready with ie := true }, _, _, ready_accepts _, ready_accepts .verify, by decide, rfl, rfl, rfl, rfl, rfl,
    rfl, rfl⟩

/-- The first and the last step of the KEYGEN phase. -/
theorem witness_KeygenMicroStep :
    (running.seq.phase = .keygen ∧ running.op = opcode .keygen ∧ needsKey .keygen = true ∧ running.seq.round.toNat = 0) ∧
      ∃ s : State, s.seq.phase = .keygen ∧ s.op = opcode .verify ∧ needsKey .verify = true ∧ s.seq.round.toNat = 15 :=
  ⟨⟨rfl, rfl, rfl, rfl⟩, { running with op := 8#4, seq := ⟨.keygen, 0#16, 15#4⟩ }, rfl, rfl, rfl, rfl⟩

theorem witness_RoundMicroStep : ∃ s : State, s.seq.phase = .round ∧ s.seq.round.toNat = 15 :=
  ⟨{ running with seq := ⟨.round, 0#16, 15#4⟩ }, rfl, rfl⟩

/-- The last block of MBUF. -/
theorem witness_LoadAndStoreMicroSteps :
    ∃ s t : State, 8 * s.seq.block.toNat + 8 = Config.nBuf ∧ s.seq.phase = .load ∧
      8 * t.seq.block.toNat + 8 = Config.nBuf ∧ t.seq.phase = .store := by
  have hb := nBuf_bounds
  have h : 8 * (BitVec.ofNat 16 (Config.nBuf / 8 - 1)).toNat + 8 = Config.nBuf := by
    simp only [BitVec.toNat_ofNat]
    omega
  exact ⟨{ running with seq := ⟨.load, BitVec.ofNat 16 (Config.nBuf / 8 - 1), 0#4⟩ },
    { running with seq := ⟨.store, BitVec.ofNat 16 (Config.nBuf / 8 - 1), 0#4⟩ }, h, rfl, h, rfl⟩

/-- PAD that fills MBUF, UNPAD of the whole of it, COMPARE of no byte. -/
theorem witness_PadUnpadCompareMicroSteps :
    (∃ s : State, s.seq.phase = .pad ∧ s.nlen.toNat + padlen s.nlen.toNat = Config.nBuf) ∧
    (∃ s : State, s.seq.phase = .unpad ∧ s.nlen.toNat = Config.nBuf) ∧
    ∃ s : State, s.seq.phase = .compare ∧ s.rlen.toNat ≤ Config.nBuf := by
  have hb := nBuf_bounds
  refine ⟨⟨{ running with nlen := BitVec.ofNat 32 (Config.nBuf - 1), seq := ⟨.pad, 0#16, 0#4⟩ }, rfl, ?_⟩,
    ⟨{ running with nlen := BitVec.ofNat 32 Config.nBuf, seq := ⟨.unpad, 0#16, 0#4⟩ }, rfl, ?_⟩,
    { running with seq := ⟨.compare, 0#16, 0#4⟩ }, rfl, Nat.zero_le _⟩
  · simp only [BitVec.toNat_ofNat, padlen]
    omega
  · simp only [BitVec.toNat_ofNat]
    omega

theorem witness_FinishMicroStep : ∃ s : State, s.seq.phase = .finish := ⟨{ running with seq := ⟨.finish, 0#16, 0#4⟩ }, rfl⟩

/-- The last bit of a byte, all of a byte, and the strings of R78. -/
theorem witness_BufferPrimitivesMoveBits :
    7 < 8 * [0x00#8].length ∧ 0 + 8 ≤ 8 * [0x00#8].length ∧ 3 + 5 ≤ 8 * [0x00#8].length ∧
      28 ≤ 8 * [0x80#8, 0#8, 0#8, 0x10#8].length ∧ 32 ≤ 8 * [0x80#8, 0#8, 0#8, 0x10#8].length := by decide

theorem witness_BufferRotationAndPermutation :
    (1 ≤ 28 ∧ 28 ≤ 8 * [0x12#8, 0x34#8, 0x56#8, 0x70#8].length) ∧
      ∀ t ∈ tableIP, 1 ≤ t ∧ t ≤ 8 * (List.replicate 8 0x00#8).length := by decide

/-- Two keys that differ in the low bit of every byte. -/
theorem witness_KeyScheduleConsequences :
    ∀ j, j < 64 → j % 8 ≠ 7 → strBit 0x0101010101010101#64 j = strBit 0x0000000000000000#64 j := by decide

/-- The three source bits all 0, all 1, and an input that differs in no selector. -/
theorem witness_TwistParameterIndependentLaws :
    (strBit 0#48 5 = false ∧ strBit 0#48 6 = false ∧ strBit 0#48 7 = false) ∧
    (strBit 0x070000000000#48 5 = true ∧ strBit 0x070000000000#48 6 = true ∧ strBit 0x070000000000#48 7 = true) ∧
    ∀ tw : TwistTables, ∃ x y : BitVec 48, y ≠ x ∧ strBit y 5 = strBit x 5 ∧ strBit y 6 = strBit x 6 ∧
      strBit y 7 = strBit x 7 ∧ ∀ k, twistSel tw y k = twistSel tw x k := by
  refine ⟨by decide, by decide, fun tw => ⟨0x000000000000#48, 0x000000000003#48, by decide, by decide, by decide,
    by decide, fun k => ?_⟩⟩
  have h : ∀ k : Fin 16, twistGroup 0x000000000003#48 k.val % 3 = twistGroup 0x000000000000#48 k.val % 3 := by decide
  have hk := h k
  simp only [twistSel, Fin.ofNat]
  apply Fin.ext
  show (twistGroup 0x000000000003#48 k.val + _) % 3 = (twistGroup 0x000000000000#48 k.val + _) % 3
  omega

/-- Both values of the three equal bits. -/
theorem witness_RoundFunctionUniformCases :
    ((strBit 0#32 4 ^^ strBit 0#48 5) = false ∧ (strBit 0#32 3 ^^ strBit 0#48 6) = false ∧
      (strBit 0#32 4 ^^ strBit 0#48 7) = false) ∧
    (strBit 0x18000000#32 4 ^^ strBit 0#48 5) = true ∧ (strBit 0x18000000#32 3 ^^ strBit 0#48 6) = true ∧
      (strBit 0x18000000#32 4 ^^ strBit 0#48 7) = true := by decide

/-- The first block of two, and the last. -/
theorem witness_CbcErrorPropagation :
    0 < [0#64, 0#64].length ∧ 1 < [0#64, 0#64].length ∧ (1#64 : Block) ≠ 0#64 ∧ 2 ≠ 0 ∧ 2 ≠ 0 + 1 := by
  decide

theorem witness_PlaintextAvalanche :
    0 < ([0#64, 0#64] : List Block).length ∧ ([0#64, 0#64] : List Block)[0]? ≠ some 1#64 ∧ 0 ≤ 1 ∧
      1 < ([0#64, 0#64] : List Block).length := by decide

/-- The first and the last offset of each range. -/
theorem witness_RegisterMap :
    (0x02C ≤ 0x02C ∧ 0x0FF < 0x100) ∧ (0x180 ≤ 0x180 ∧ 0xFFF < 0x1000) ∧ 0 < 0x1000 ∧ 0xFFF < 0x1000 ∧
      (0x3000 ≤ 0x3000 ∧ 0x3FFF < 0x4000) ∧ 0x4000 ≤ 0x4000 := by decide

theorem witness_HostWritesWhileIdle :
    ready.busy = false ∧ decode 1#32 = .ok .keygen ∧ ¬∃ i, decode 0#32 = .ok i := by
  refine ⟨rfl, by decide, ?_⟩
  rintro ⟨i, h⟩
  cases i <;> revert h <;> decide
theorem witness_HostWritesWhileBusy : running.busy = true ∧ (∃ a, Place.mbuf 0 = .mbuf a ∨ Place.mbuf 0 = .vbuf a) :=
  ⟨rfl, 0, .inl rfl⟩
theorem witness_HostReads : ready.busy = false ∧ running.busy = true := ⟨rfl, rfl⟩

/-- The first and the last word of a window. -/
theorem witness_BufferWindows :
    ready.busy = false ∧ 4 * 0 < Config.nBuf ∧ 4 * (Config.nBuf / 4 - 1) + 4 = Config.nBuf := by
  have hb := nBuf_bounds
  refine ⟨rfl, ?_, ?_⟩ <;> omega

/-- A byte access, an unaligned one, an aligned word, and a step that is refused. -/
theorem witness_OnlyAlignedWordsHaveMeaning :
    Width.byte ≠ .word ∧ (0x3FFE < 0x4000 ∧ 0x3FFE % 4 ≠ 0) ∧ (0x3FFC < 0x4000 ∧ 0x3FFC % 4 = 0) ∧
      step { ready with prog := [.read .byte 0x000] } = .refused .subWordAccess ∧
      step { ready with prog := [.read .word 0x002] } = .refused .unalignedAccess :=
  ⟨by decide, by decide, by decide, rfl, rfl⟩

/-- A poll that matches, and one that does not. -/
theorem witness_PollReadsUntilMatch :
    ∃ s t : State, s.prog = .poll 0x00C 1#32 0#32 :: [] ∧
      hostStep { s with prog := .read .word 0x00C :: [] } = .next t ∧ t.replies = [0xC0#32] :=
  ⟨{ ready with prog := [waitOp] }, _, rfl, rfl, by decide⟩

theorem witness_InterruptLevel :
    (ready.busy = false ∧ ready.Accepts .verify) ∧ (State.reset.busy = false ∧ ¬State.reset.Accepts .keygen) ∧
    (∃ t, writePlace .ctrl 1#32 ready = .next t) ∧ (∃ t, writePlace .status 2#32 ready = .next t) ∧
    (∃ s t : State, s.seq.phase = .finish ∧ engineStep s = .next t) ∧ (¬∃ i, decode 0#32 = .ok i) ∧ ready.busy = false := by
  refine ⟨⟨rfl, ready_accepts _⟩, witness_RejectedCommandChangesOnlyStatus, ⟨_, rfl⟩, ⟨_, rfl⟩,
    ⟨{ running with seq := ⟨.finish, 0#16, 0#4⟩ }, _, rfl, rfl⟩, ?_, rfl⟩
  rintro ⟨i, h⟩
  cases i <;> revert h <;> decide

theorem witness_KeyFlagsClearedOnlyByReset :
    ∃ s t : State, step s = .next t ∧ s.key0Set = true ∧ t.key0Set = false ∧ s.key1Set = true ∧ t.key1Set = false :=
  ⟨{ ready with sched := [.reset] }, _, rfl, rfl, rfl, rfl, rfl⟩

/-- By a reset, and by the host. -/
theorem witness_WdropClearedOnlyByHost :
    (∃ s t : State, step s = .next t ∧ s.wdrop = true ∧ t.wdrop = false ∧ s.sched = [.reset]) ∧
      ∃ s t : State, step s = .next t ∧ s.wdrop = true ∧ t.wdrop = false ∧ s.sched = [] :=
  ⟨⟨{ ready with wdrop := true, sched := [.reset] }, _, rfl, rfl, rfl, rfl⟩,
    { ready with wdrop := true, prog := [WR 0x00C 0x20#32] }, _, rfl, rfl, by decide, rfl⟩

theorem witness_EngineLeavesHostRegisters : ∃ t, engineStep running = .next t := ⟨_, rfl⟩

/-- A CMD write while KEYGEN runs. -/
theorem witness_HostTurnKeepsRunningCommand :
    ∃ s t u : State, s.busy = true ∧ hostStep s = .next t ∧ t.wdrop = true ∧ engineStep s = .next u :=
  ⟨{ running with prog := [commandOp .pad] }, _, _, rfl, rfl, by decide, rfl⟩

theorem witness_HostCannotDisturbRunningCommand :
    ∃ (turns : List Turn) (s t u : State), Turn.reset ∉ turns ∧ turns.count .engine = 2 ∧ s.busy = true ∧
      interleave turns s = .next t ∧ engineRun (turns.count .engine) s = .next u ∧ u.busy = true :=
  ⟨[.engine, .host, .engine], { running with prog := [commandOp .pad] }, _, _, by decide, rfl, rfl, rfl, rfl, rfl⟩

theorem witness_EmptyInputNeverRaised :
    ∃ s t : State, step s = .next t ∧ s.errcode ≠ .emptyInput ∧ s.epend ≠ .emptyInput :=
  ⟨running, _, rfl, by decide, by decide⟩

theorem witness_ResetValues : ∃ (s : State) (sch : List Turn) (t : State), s.sched = .reset :: sch ∧ step s = .next t :=
  ⟨{ running with sched := [.reset] }, [], _, rfl, rfl⟩

/-- A running command meets both invariants. -/
theorem running_inv : running.Inv ∧ running.KeysInv := by
  refine ⟨⟨by decide, by decide, by decide, by decide, by decide, by decide, by decide, ?_, by decide, by decide,
    Nat.zero_le _⟩, ⟨by decide, ?_, by decide⟩⟩
  · exact fun _ => ⟨.keygen, ⟨rfl, by decide, fun _ => ⟨rfl, rfl⟩, rfl, rfl, trivial, rfl, by decide, Nat.zero_le _, fun _ => rfl⟩⟩
  · exact fun _ h => absurd h (by decide)

theorem witness_StepKeepsInvariant : ∃ s t : State, s.Inv ∧ step s = .next t := ⟨running, _, running_inv.1, rfl⟩
theorem witness_StepKeepsSubkeyTable : ∃ s t : State, s.Inv ∧ s.KeysInv ∧ step s = .next t :=
  ⟨running, _, running_inv.1, running_inv.2, rfl⟩
theorem witness_StepNeverFaults : ∃ s : State, s.Inv := ⟨running, running_inv.1⟩

/-- Contents with one byte listed. -/
theorem witness_CanonicalFormIsUnique :
    ∃ m m' : Memory, m.wf = true ∧ m'.wf = true ∧ m'.buf = m.buf ∧ m'.epoch = m.epoch ∧ (∀ a, m'.read a = m.read a) ∧
      m.read 3 = m.unlisted 3 + 1#8 :=
  ⟨State.reset.mbuf.write 3 (State.reset.mbuf.unlisted 3 + 1#8), State.reset.mbuf.write 3 (State.reset.mbuf.unlisted 3 + 1#8),
    write_wf (by decide) _ _, write_wf (by decide) _ _, rfl, rfl, fun _ => rfl, read_write_same _ _ _⟩

end Sys2Proof.Machine.Tests
end

section
/-!
PROOF. The words CAPS and STATUS read as (10_state.md R15, R18, R21; 00_scope.md R6).
-/

namespace Sys2Proof.Machine.Proofs

open Sys2Proof.Machine.Laws

/-- N_BUF fits the CAPS word, so the word reads back as N_BUF itself. -/
@[simp] theorem capsWord_toNat : capsWord.toNat = Config.nBuf := by
  obtain ⟨-, -, hle⟩ := nBuf_bounds
  have hlt : Config.nBuf < 2 ^ 32 := by omega
  rw [capsWord, BitVec.toNat_ofNat, Nat.mod_eq_of_lt hlt]

/-- No error code but `none` is numbered 0. -/
theorem errCode_bits_eq_zero_iff (e : ErrCode) : e.bits = 0#4 ↔ e = .none := by
  cases e <;> decide

/-- STATUS.ERR is ERRCODE != 0, said of the code and not of its number (10_state.md R21). -/
theorem err_eq_decide (s : State) : s.err = decide (s.errcode ≠ .none) := by
  rw [Bool.eq_iff_iff, State.err, bne_iff_ne, decide_eq_true_iff, ne_eq, errCode_bits_eq_zero_iff]

/-- The STATUS word as its flags shifted in one by one, KEY1_SET first: with it, the library's `getLsbD_concat` lemmas
read off every bit. -/
theorem statusWord_eq_concat (s : State) :
    s.statusWord =
      ((((((((0#24).concat s.key1Set).concat s.key0Set).concat s.wdrop).concat s.ksv).concat s.verifyOk).concat
        s.err).concat s.done).concat s.busy := rfl

/-- The bits 0 to 7 of STATUS (10_state.md R18). -/
theorem statusWord_flags (s : State) :
    s.statusWord.getLsbD 0 = s.busy ∧ s.statusWord.getLsbD 1 = s.done ∧ s.statusWord.getLsbD 2 = s.err ∧
    s.statusWord.getLsbD 3 = s.verifyOk ∧ s.statusWord.getLsbD 4 = s.ksv ∧ s.statusWord.getLsbD 5 = s.wdrop ∧
    s.statusWord.getLsbD 6 = s.key0Set ∧ s.statusWord.getLsbD 7 = s.key1Set := by
  simp [statusWord_eq_concat]

/-- The bits of STATUS from 8 on are those of the 24 zeros above the flags. -/
theorem statusWord_reserved (s : State) {j : Nat} (hj : 8 ≤ j) : s.statusWord.getLsbD j = false := by
  obtain ⟨k, rfl⟩ := Nat.exists_eq_add_of_le' hj
  simp only [statusWord_eq_concat, BitVec.getLsbD_concat_succ, BitVec.getLsbD_zero]

/-- Settles O44: N_BUF fits its word, and the STATUS word is its flags shifted in one by one. -/
theorem capsAndStatusWords : Obligations.CapsAndStatusWords := by
  refine ⟨⟨capsWord_toNat, nBuf_bounds⟩, fun s => ?_⟩
  obtain ⟨h0, h1, h2, h3, h4, h5, h6, h7⟩ := statusWord_flags s
  exact ⟨h0, h1, h2.trans (err_eq_decide s), h3, h4, h5, h6, h7, fun _ => statusWord_reserved s⟩

end Sys2Proof.Machine.Proofs
end

section
/-!
PROOF. Host writes while BUSY = 1 (10_state.md R16, R18, R43).
-/

namespace Sys2Proof.Machine.Proofs

open Sys2Proof.Machine.Laws

theorem whenIdle_busy {s : State} (h : s.busy = true) (t : State) : s.whenIdle t = s.dropWrite := by
  simp [State.whenIdle, h]

theorem submitIllegal_busy {s : State} (h : s.busy = true) : s.submitIllegal = s.dropWrite := by
  simp [State.submitIllegal, h]

/-- Every command is a `submit`, so each is dropped while BUSY = 1 whatever its checks and operands. -/
theorem exec_busy {s : State} (h : s.busy = true) (i : Instr) : exec i s = .next s.dropWrite := by
  cases i <;> exact congrArg Host.Outcome.next (submit_busy h _ _ _)

/-- A CMD write is dropped while BUSY = 1, be its word a command or an illegal one. -/
theorem cmdWrite_busy {s : State} (h : s.busy = true) (v : Word) : cmdWrite v s = .next s.dropWrite := by
  unfold cmdWrite
  cases decode v with
  | ok i => exact exec_busy h i
  | illegal _ => exact congrArg Host.Outcome.next (submitIllegal_busy h)

/-- The flags a STATUS write clears, said as R18 says it: cleared by a 1, else kept. -/
theorem writeStatus_eq_ite (s : State) (v : Word) :
    s.writeStatus v = { s with
      done := if v.getLsbD 1 then false else s.done, wdrop := if v.getLsbD 5 then false else s.wdrop } := by
  have clear (b c : Bool) : (b && !c) = if c then false else b := by cases c <;> simp
  rw [State.writeStatus, clear, clear]

/-- Settles O42: the dropped places answer `dropWrite`, CMD by way of its decoder and the others by `whenIdle`. -/
theorem hostWritesWhileBusy : Obligations.HostWritesWhileBusy := by
  intro s v hb
  refine ⟨?dropped, rfl, congrArg Host.Outcome.next (writeStatus_eq_ite s v), ?noEffect⟩
  case dropped =>
    have drop (t : State) : Host.Outcome.next (s.whenIdle t) = (.next s.dropWrite : Result) :=
      congrArg Host.Outcome.next (whenIdle_busy hb t)
    rintro p (rfl | rfl | rfl | rfl | rfl | ⟨a, rfl | rfl⟩)
    case inl => exact cmdWrite_busy hb v
    all_goals exact drop _
  case noEffect =>
    rintro p (rfl | rfl | rfl | rfl | rfl | ⟨r, first, rfl⟩) <;> rfl

end Sys2Proof.Machine.Proofs
end

section
/-!
PROOF. The buffer windows while BUSY = 0 (20_memory.md R47, R49, R50).
-/

namespace Sys2Proof.Machine.Proofs

open Sys2Proof.Machine.Laws

/-- An offset of the MBUF window below N_BUF names the buffer byte it counts to (20_memory.md R49). -/
theorem placeOf_mbufWindow {a : Nat} (ha : a < Config.nBuf) : placeOf (0x1000 + a) = .mbuf a := by
  obtain ⟨-, -, hle⟩ := nBuf_bounds
  rw [placeOf, if_neg (by omega), if_neg (by omega), if_neg (by omega), if_pos (by omega),
    Nat.add_sub_cancel_left, if_pos ha]

/-- An offset of the VBUF window below N_BUF names the buffer byte it counts to (20_memory.md R49). -/
theorem placeOf_vbufWindow {a : Nat} (ha : a < Config.nBuf) : placeOf (0x2000 + a) = .vbuf a := by
  obtain ⟨-, -, hle⟩ := nBuf_bounds
  rw [placeOf, if_neg (by omega), if_neg (by omega), if_neg (by omega), if_neg (by omega), if_pos (by omega),
    Nat.add_sub_cancel_left, if_pos ha]

theorem whenIdle_idle {s : State} (h : s.busy = false) (t : State) : s.whenIdle t = t := by
  simp [State.whenIdle, h]

theorem replyIdle_idle {s : State} (h : s.busy = false) (v : Word) : s.replyIdle v = s.reply v := by
  simp [State.replyIdle, h]

/-- A word stored at `a` is the four bytes from `a` on, its highest lane first, and no other byte (20_memory.md R50). -/
theorem read_writeBytes_word (m : Memory) (a : Nat) (v : Word) :
    (m.writeBytes a 4 v).read a = v.extractLsb' 24 8 ∧ (m.writeBytes a 4 v).read (a + 1) = v.extractLsb' 16 8 ∧
    (m.writeBytes a 4 v).read (a + 2) = v.extractLsb' 8 8 ∧ (m.writeBytes a 4 v).read (a + 3) = v.extractLsb' 0 8 ∧
    ∀ x, x < a ∨ a + 4 ≤ x → (m.writeBytes a 4 v).read x = m.read x := by
  have lane (j : Nat) (hj : j < 4) := read_writeBytes_inside m a 4 v j hj
  exact ⟨lane 0 (by decide), lane 1 (by decide), lane 2 (by decide), lane 3 (by decide),
    read_writeBytes_outside m a 4 v⟩

/-- A word read at `a` is the four bytes from `a` on, the first in the highest lane (20_memory.md R50). -/
theorem readBytes_word (m : Memory) (a : Nat) :
    m.readBytes a 4 = m.read a ++ m.read (a + 1) ++ m.read (a + 2) ++ m.read (a + 3) := by
  have first : m.readBytes a 1 = m.read a := BitVec.zero_width_append 0#0 (m.read a)
  calc m.readBytes a 4 = m.readBytes a 1 ++ m.read (a + 1) ++ m.read (a + 2) ++ m.read (a + 3) := rfl
    _ = _ := by rw [first]

/-- Settles O45: the window names byte 4w of its buffer, where a word is stored and read lane by lane. -/
theorem bufferWindows : Obligations.BufferWindows := by
  intro s w v hb hw
  rw [placeOf_mbufWindow hw, placeOf_vbufWindow hw, ← readBytes_word, ← readBytes_word]
  refine ⟨⟨s.mbuf.writeBytes (4 * w) 4 v, ?_, read_writeBytes_word _ _ _⟩,
    ⟨s.vbuf.writeBytes (4 * w) 4 v, ?_, read_writeBytes_word _ _ _⟩, ?_, rfl⟩
  · exact congrArg Host.Outcome.next (whenIdle_idle hb _)
  · exact congrArg Host.Outcome.next (whenIdle_idle hb _)
  · exact replyIdle_idle hb _

end Sys2Proof.Machine.Proofs
end

section
/-!
PROOF. Which host accesses and steps are refused (20_memory.md R55).
-/

namespace Sys2Proof.Machine.Proofs

open Sys2Proof.Machine.Laws

/-- The access check passes exactly the accesses that are well formed. -/
theorem accessCheck_eq_none_iff_wf {w : Width} {off : Nat} :
    accessCheck w off = none ↔ (w.ok && alignedOffset off) = true := by
  rw [accessCheck_none, Bool.and_eq_true]
  cases w <;> simp [Width.ok]

/-- A well-formed transaction has a next state, whatever its place and the state (20_memory.md R55). -/
theorem hostAccess_next_of_wf {h : HostOp} (hwf : h.wf = true) (s : State) : ∃ t, hostAccess h s = .next t := by
  cases h with
  | write w off v =>
    have hc : accessCheck w off = none := accessCheck_eq_none_iff_wf.2 hwf
    simpa only [hostAccess, hc] using writePlace_next (placeOf off) v s
  | read w off =>
    have hc : accessCheck w off = none := accessCheck_eq_none_iff_wf.2 hwf
    exact ⟨readPlace (placeOf off) s, by simp only [hostAccess, hc]⟩
  | poll off mask val =>
    have hc : accessCheck .word off = none := accessCheck_eq_none_iff_wf.2 hwf
    exact ⟨pollAgain off mask val (readPlace (placeOf off) s), by simp only [hostAccess, hc]⟩

/-- A transaction that is not well formed is refused, whatever its place and the state (20_memory.md R55). -/
theorem hostAccess_refused_of_not_wf {h : HostOp} (hwf : h.wf ≠ true) (s : State) :
    ∃ q, hostAccess h s = .refused q := by
  have stopped {w : Width} {off : Nat} (hw : (w.ok && alignedOffset off) ≠ true) : ∃ q, accessCheck w off = some q :=
    Option.ne_none_iff_exists'.1 (mt accessCheck_eq_none_iff_wf.1 hw)
  cases h with
  | write w off v =>
    obtain ⟨q, hq⟩ : ∃ q, accessCheck w off = some q := stopped hwf
    exact ⟨q, by simp only [hostAccess, hq]⟩
  | read w off =>
    obtain ⟨q, hq⟩ : ∃ q, accessCheck w off = some q := stopped hwf
    exact ⟨q, by simp only [hostAccess, hq]⟩
  | poll off mask val =>
    obtain ⟨q, hq⟩ : ∃ q, accessCheck .word off = some q := stopped hwf
    exact ⟨q, by simp only [hostAccess, hq]⟩

/-- A host's turn is refused only for the width or the alignment of its access; a host with nothing to do waits. -/
theorem hostStep_refused {s : State} {q : Refusal} (h : hostStep s = .refused q) :
    q = .subWordAccess ∨ q = .unalignedAccess := by
  unfold hostStep at h
  split at h
  case h_1 => cases h
  case h_2 => exact hostAccess_stops.2 q h

/-- A step is refused only for an access: the engine's turn and a reset never are. -/
theorem step_refused {s : State} {q : Refusal} (h : step s = .refused q) :
    q = .subWordAccess ∨ q = .unalignedAccess := by
  obtain ⟨sch, hhost | hengine | ⟨hreset, -⟩⟩ := step_cases s
  · exact hostStep_refused (hhost.symm.trans h)
  · exact absurd (hengine.symm.trans h) (engineStep_stops.1 q)
  · cases hreset.symm.trans h

/-- Settles O46: an access is answered when it is well formed and refused else, in the register block as everywhere. -/
theorem onlyAlignedWordsHaveMeaning : Obligations.OnlyAlignedWordsHaveMeaning := by
  refine ⟨?misshapen, ?unalignedPoll, ?alignedWord, fun s q => step_refused⟩
  case misshapen =>
    intro s off v w _ hbad
    have hwf : (w.ok && alignedOffset off) ≠ true := by
      rw [ne_eq, ← accessCheck_eq_none_iff_wf, accessCheck_none, not_and_or]
      simpa [alignedOffset] using hbad
    exact ⟨hostAccess_refused_of_not_wf (h := .write w off v) hwf s,
      hostAccess_refused_of_not_wf (h := .read w off) hwf s⟩
  case unalignedPoll =>
    intro s off mask val _ hbad
    have hwf : alignedOffset off ≠ true := by simpa [alignedOffset] using hbad
    exact hostAccess_refused_of_not_wf (h := .poll off mask val) hwf s
  case alignedWord =>
    intro s off v mask _ hal
    have hwf : alignedOffset off = true := by simpa [alignedOffset] using hal
    exact ⟨hostAccess_next_of_wf (h := .write .word off v) hwf s, hostAccess_next_of_wf (h := .read .word off) hwf s,
      hostAccess_next_of_wf (h := .poll off mask v) hwf s⟩

end Sys2Proof.Machine.Proofs
end

section
/-!
PROOF. Which command words are valid, and what writing any other to CMD while BUSY = 0 does (30_encoding.md R66).
-/

namespace Sys2Proof.Machine.Proofs

/-! ### The opcode map -/

/-- A number the opcode map gives a command for is that command's opcode. -/
theorem eq_opcode_of_decodeOp {n : Nat} {i : Instr} (h : decodeOp n = .ok i) : n = (opcode i).toNat := by
  unfold decodeOp at h
  split at h <;> cases h <;> rfl

theorem opcode_bounds (i : Instr) : 1 ≤ (opcode i).toNat ∧ (opcode i).toNat ≤ 8 := by
  cases i <;> decide

/-- The opcode map gives a command for 1 to 8 alone (30_encoding.md R67, R69). -/
theorem exists_decodeOp_iff {n : Nat} : (∃ i, decodeOp n = .ok i) ↔ 1 ≤ n ∧ n ≤ 8 := by
  constructor
  · rintro ⟨i, hi⟩
    rw [eq_opcode_of_decodeOp hi]
    exact opcode_bounds i
  · rintro ⟨hlo, hhi⟩
    interval_cases n <;> exact ⟨_, rfl⟩

/-! ### The decoder -/

/-- A word decodes to a command when its must-be-zero field is zero and the opcode map gives that command. -/
theorem decode_eq_ok_iff {w : Word} {i : Instr} :
    decode w = .ok i ↔ w.extractLsb' 4 28 = 0#28 ∧ decodeOp (w.extractLsb' 0 4).toNat = .ok i := by
  unfold decode
  split
  case isTrue hz => exact (and_iff_right hz).symm
  case isFalse hz => exact ⟨nofun, fun h => absurd h.1 hz⟩

theorem opcode_of_decode {w : Word} {i : Instr} (h : decode w = .ok i) : opcode i = w.extractLsb' 0 4 :=
  BitVec.eq_of_toNat_eq (eq_opcode_of_decodeOp (decode_eq_ok_iff.1 h).2).symm

/-! ### CMD writes of other words -/

theorem submitIllegal_idle {s : State} (h : s.busy = false) : s.submitIllegal = s.rejectedWith .badCommand := by
  simp [State.submitIllegal, h, State.clearResults, State.reject, State.rejectedWith]

/-- A word that is no command is taken for an illegal one, of whatever kind. -/
theorem cmdWrite_not_decoded {w : Word} (h : ¬∃ i, decode w = .ok i) (s : State) :
    cmdWrite w s = .next s.submitIllegal := by
  unfold cmdWrite
  cases hd : decode w with
  | ok i => exact absurd ⟨i, hd⟩ h
  | illegal e => rfl

/-- Settles O1: the decoder is the opcode map behind the must-be-zero check, and an illegal word is rejected. -/
theorem validCommandWords : Obligations.ValidCommandWords := by
  refine ⟨fun w => ?valid, fun w i => opcode_of_decode, fun w s hw hb => ?rejected⟩
  case valid => simp only [decode_eq_ok_iff, exists_and_left, exists_decodeOp_iff]
  case rejected => rw [cmdWrite_not_decoded hw, submitIllegal_idle hb]

end Sys2Proof.Machine.Proofs
end

section
/-!
PROOF. The twist and the round function for every value of the twist tables (42_round_function.md R101, R103).
-/

namespace Sys2Proof.Machine.Proofs

open Sys2Proof.Machine.Laws

/-- A word whose bits all have one value is all zeros or all ones. -/
theorem word_eq_of_bits_eq {w : Word} {b : Bool} (h : ∀ i, i < 32 → strBit w i = b) :
    w = if b then 0xFFFFFFFF#32 else 0x00000000#32 := by
  refine str_ext fun i hi => (h i hi).trans ?_
  cases b with
  | false => exact BitVec.getMsbD_zero.symm
  | true =>
    have hones : ∀ i < 32, strBit 0xFFFFFFFF#32 i = true := by decide
    exact (hones i hi).symm

/-! ### The twist -/

/-- Three equal source bits fix every output bit of the twist, each being one of them. -/
theorem strBit_twist_of_sourceBits_eq (tw : TwistTables) {x : BitVec 48} {b : Bool} (h5 : strBit x 5 = b)
    (h6 : strBit x 6 = b) (h7 : strBit x 7 = b) {j : Nat} (hj : j < 32) : strBit (twist tw x) j = b := by
  obtain h | h | h := strBit_twist tw x j hj
  · exact h.trans h5
  · exact h.trans h6
  · exact h.trans h7

/-- Three equal source bits fix the output of the twist (42_round_function.md R101 (a), (b)). -/
theorem twist_of_sourceBits_eq (tw : TwistTables) {x : BitVec 48} {b : Bool} (h5 : strBit x 5 = b)
    (h6 : strBit x 6 = b) (h7 : strBit x 7 = b) : twist tw x = if b then 0xFFFFFFFF#32 else 0x00000000#32 :=
  word_eq_of_bits_eq fun _ => strBit_twist_of_sourceBits_eq tw h5 h6 h7

/-- The twist sees its input through the three source bits and the selectors alone (42_round_function.md R101). -/
theorem twist_congr {tw : TwistTables} {x y : BitVec 48} (h5 : strBit y 5 = strBit x 5) (h6 : strBit y 6 = strBit x 6)
    (h7 : strBit y 7 = strBit x 7) (hsel : ∀ k, twistSel tw y k = twistSel tw x k) : twist tw y = twist tw x := by
  have hsrc (p : SrcPos) : strBit y (srcIndex p) = strBit x (srcIndex p) := by
    cases p with
    | five => exact h5
    | six => exact h6
    | seven => exact h7
  have hpair (k : Fin 16) : twistPair tw y k = twistPair tw x k := congrArg tw.pair (hsel k)
  exact bitsOf_congr fun j _ => by simp only [hpair, hsrc]

/-- Settles O31: every output bit is a source bit, and the selectors say which. -/
theorem twistParameterIndependentLaws : Obligations.TwistParameterIndependentLaws := by
  intro tw x
  refine ⟨twist_of_sourceBits_eq tw, twist_of_sourceBits_eq tw, fun j hj => ?_, fun y => twist_congr⟩
  simpa only [List.mem_cons, List.not_mem_nil, or_false] using strBit_twist tw x j hj

/-! ### The round function -/

/-- Every bit of `perm(s, P)` is a bit of `s` (40_bitvector.md R86). -/
theorem strBit_permP (s : Word) {i : Nat} (hi : i < 32) : ∃ j, j < 32 ∧ strBit (permP s) i = strBit s j := by
  have hrange : ∀ i < 32, tableP.getD i 0 - 1 < 32 := by decide
  exact ⟨tableP.getD i 0 - 1, hrange i hi, by simp [permP, hi]⟩

/-- Three equal source bits of its twist input fix the round function, P only moving the output bits of the twist. -/
theorem roundF_of_sourceBits_eq (tw : TwistTables) {R : Word} {K : Subkey} {b : Bool}
    (h5 : strBit (permE R ^^^ K) 5 = b) (h6 : strBit (permE R ^^^ K) 6 = b) (h7 : strBit (permE R ^^^ K) 7 = b) :
    roundF tw R K = if b then 0xFFFFFFFF#32 else 0x00000000#32 := by
  refine word_eq_of_bits_eq fun i hi => ?_
  obtain ⟨j, hj, hmoved⟩ := strBit_permP (twist tw (permE R ^^^ K)) hi
  exact hmoved.trans (strBit_twist_of_sourceBits_eq tw h5 h6 h7 hj)

/-- E puts bits ⟨4⟩, ⟨3⟩, ⟨4⟩ of R at the source positions 5, 6, 7, and the subkey is xored onto them (42_round_function.md R103). -/
theorem strBit_roundInput_source (R : Word) (K : Subkey) :
    strBit (permE R ^^^ K) 5 = (strBit R 4 ^^ strBit K 5) ∧ strBit (permE R ^^^ K) 6 = (strBit R 3 ^^ strBit K 6) ∧
      strBit (permE R ^^^ K) 7 = (strBit R 4 ^^ strBit K 7) := by
  simp [permE, tableE]

/-- Settles O32: where the three source bits are equal they fix the output of the twist, which P only reorders. -/
theorem roundFunctionUniformCases : Obligations.RoundFunctionUniformCases := by
  intro tw R K
  obtain ⟨h5, h6, h7⟩ := strBit_roundInput_source R K
  exact ⟨h5, h6, h7, fun b hb5 hb6 hb7 =>
    roundF_of_sourceBits_eq tw (h5.trans hb5) (h6.trans hb6) (h7.trans hb7)⟩

end Sys2Proof.Machine.Proofs
end

section
/-!
PROOF. The block transform undoes itself with the direction turned (43_block_cipher.md R105 to R109).
-/

namespace Sys2Proof.Machine.Proofs

open Sys2Proof.Machine.Laws

/-! ### The initial permutation and its inverse -/

/-- Two tables that look each other up undo each other as permutations of a string. -/
theorem perm_perm_of_inverse {n : Nat} {T U : List Nat} (s : BitVec n)
    (h : ∀ i < n, T.getD i 0 - 1 < n ∧ U.getD (T.getD i 0 - 1) 0 - 1 = i) : perm n T (perm n U s) = s := by
  refine str_ext fun i hi => ?_
  obtain ⟨hrange, hback⟩ := h i hi
  rw [strBit_perm, strBit_perm, hback, decide_eq_true hi, decide_eq_true hrange, Bool.true_and, Bool.true_and]

@[simp] theorem permIPInv_permIP (s : Block) : permIPInv (permIP s) = s := perm_perm_of_inverse s (by decide)

@[simp] theorem permIP_permIPInv (s : Block) : permIP (permIPInv s) = s := perm_perm_of_inverse s (by decide)

/-! ### Halves of a block -/

/-- Splitting a joined block gives its halves exchanged, for want of a final swap (43_block_cipher.md R106). -/
theorem splitBlock_joinBlock (lr : Word × Word) : splitBlock (joinBlock lr) = lr.swap := by
  rw [splitBlock, joinBlock, permIP_permIPInv, substr_append_left, substr_append_right, Prod.swap]

/-- Joining exchanges the halves back. -/
theorem joinBlock_swap_splitBlock (b : Block) : joinBlock (splitBlock b).swap = b := by
  simp only [joinBlock, splitBlock, Prod.swap, substr_append, permIPInv_permIP]

/-! ### Rounds run backwards -/

/-- The other direction. -/
def turned : Dir → Dir
  | .enc => .dec
  | .dec => .enc

/-- Round numbers mirror each other in the 16 rounds when they add up to 15. -/
theorem fifteen_sub_ofNat {n m : Nat} (h : n + m = 15) : 15#4 - BitVec.ofNat 4 n = BitVec.ofNat 4 m := by
  rw [← h, BitVec.ofNat_add, add_sub_cancel_left]

/-- A round uses the subkey of its mirror round in the other direction (00_scope.md R12). -/
theorem roundKey_turned (ks : Vector Subkey 16) (dir : Dir) {n m : Nat} (h : n + m = 15) :
    roundKey ks (turned dir) (BitVec.ofNat 4 n) = roundKey ks dir (BitVec.ofNat 4 m) := by
  cases dir with
  | enc => exact congrArg (fun r : BitVec 4 => ks[r.toFin]) (fifteen_sub_ofNat h)
  | dec => exact congrArg (fun r : BitVec 4 => ks[r.toFin]) (fifteen_sub_ofNat ((add_comm m n).trans h)).symm

/-- On exchanged halves a round undoes itself, whatever the round function (43_block_cipher.md R109). -/
theorem feistelRound_swap_feistelRound (tw : TwistTables) (k : Subkey) (lr : Word × Word) :
    feistelRound tw k (feistelRound tw k lr).swap = lr.swap :=
  congrArg Prod.swap (feistelRound_undo tw k lr)

/-- Rounds of the turned direction, on the exchanged result of all 16, undo the last of them one by one: after `n` the
result of the first `m` is left (43_block_cipher.md R109). -/
theorem feistelRounds_turned (tw : TwistTables) (ks : Vector Subkey 16) (dir : Dir) (lr : Word × Word) (n m : Nat)
    (h : n + m = 16) :
    feistelRounds tw ks (turned dir) n (feistelRounds tw ks dir 16 lr).swap = (feistelRounds tw ks dir m lr).swap := by
  induction n generalizing m with
  | zero =>
    obtain rfl : m = 16 := by omega
    rfl
  | succ n ih =>
    have hmirror : n + m = 15 := by omega
    rw [feistelRounds, ih (m + 1) (by omega), roundKey_turned ks dir hmirror, feistelRounds,
      feistelRound_swap_feistelRound]

/-- The transform undoes the transform of the turned direction. -/
theorem transform_turned_transform (tw : TwistTables) (ks : Vector Subkey 16) (dir : Dir) (b : Block) :
    transform tw ks (turned dir) (transform tw ks dir b) = b := by
  have hrounds : feistelRounds tw ks (turned dir) 16 (feistelRounds tw ks dir 16 (splitBlock b)).swap =
      (splitBlock b).swap := feistelRounds_turned tw ks dir (splitBlock b) 16 0 rfl
  rw [transform, transform, splitBlock_joinBlock, hrounds, joinBlock_swap_splitBlock]

/-- Settles O33: each round, run on exchanged halves with the subkey of its mirror round, undoes that round. -/
theorem transformSelfInverse : Obligations.TransformSelfInverse :=
  fun tw ks b => ⟨transform_turned_transform tw ks .enc b, transform_turned_transform tw ks .dec b⟩

end Sys2Proof.Machine.Proofs
end

section
/-!
PROOF. Padding and unpadding as functions on byte strings (44_cbc_padding.md R112 to R116).
-/

namespace Sys2Proof.Machine.Proofs

/-! ### Padding -/

theorem one_le_padlen (n : Nat) : 1 ≤ padlen n := by
  unfold padlen; omega

theorem padlen_le_eight (n : Nat) : padlen n ≤ 8 := Nat.sub_le 8 (n % 8)

/-- A padded length is a multiple of 8 (44_cbc_padding.md R112). -/
theorem add_padlen_mod_eight (n : Nat) : (n + padlen n) % 8 = 0 := by
  unfold padlen; omega

@[simp] theorem length_padTail (n : Nat) : (padTail n).length = padlen n := by
  rw [padTail, List.length_cons, List.length_replicate, Nat.sub_add_cancel (one_le_padlen n)]

@[simp] theorem length_padBytes (m : List Byte) : (padBytes m).length = m.length + padlen m.length := by
  rw [padBytes, List.length_append, length_padTail]

/-- Settles O34: the bytes added are by definition the marker and zeros; the rest is arithmetic of `padlen`. -/
theorem padAddsMarkerAndZeros : Obligations.PadAddsMarkerAndZeros := fun m =>
  ⟨rfl, one_le_padlen _, padlen_le_eight _, add_padlen_mod_eight _, rfl, length_padBytes m⟩

/-! ### Unpadding -/

/-- On the reversed string: zeros, then the byte taken for the marker, then what is left. -/
theorem dropPadding_eq_some_iff {r q : List Byte} :
    dropPadding r = some q ↔ ∃ (m : Byte) (z : Nat), m ≠ 0x00#8 ∧ r = List.replicate z 0x00#8 ++ m :: q := by
  induction r with
  | nil => simp [dropPadding]
  | cons b bs ih =>
    by_cases hb : b = 0x00#8
    · rw [dropPadding, if_pos hb, ih, hb]
      constructor
      · rintro ⟨m, z, hm, rfl⟩
        exact ⟨m, z + 1, hm, rfl⟩
      · rintro ⟨m, _ | z, hm, h⟩
        · exact absurd (List.cons.inj h).1.symm hm
        · exact ⟨m, z, hm, (List.cons.inj h).2⟩
    · rw [dropPadding, if_neg hb]
      constructor
      · rintro ⟨⟩
        exact ⟨b, 0, hb, rfl⟩
      · rintro ⟨m, _ | z, hm, h⟩
        · exact congrArg some (List.cons.inj h).2
        · exact absurd (List.cons.inj h).1 hb

theorem dropPadding_eq_none_iff {r : List Byte} : dropPadding r = none ↔ ∀ x ∈ r, x = 0x00#8 := by
  induction r with
  | nil => simp [dropPadding]
  | cons b bs ih =>
    rw [dropPadding, List.forall_mem_cons]
    split_ifs with hb
    · simp [hb, ih]
    · simp [hb]

/-- `unpad` drops the zeros at the end and the byte before them, whatever it is (44_cbc_padding.md R114, R115). -/
theorem unpadBytes_eq_some_iff {b p : List Byte} :
    unpadBytes b = some p ↔ ∃ (m : Byte) (z : Nat), m ≠ 0x00#8 ∧ b = p ++ m :: List.replicate z 0x00#8 := by
  have hreverse (m : Byte) (z : Nat) :
      b.reverse = List.replicate z 0x00#8 ++ m :: p.reverse ↔ b = p ++ m :: List.replicate z 0x00#8 := by
    simp [List.reverse_eq_iff]
  have hunpad : unpadBytes b = some p ↔ dropPadding b.reverse = some p.reverse := by
    simp [unpadBytes, List.reverse_eq_iff]
  simp only [hunpad, dropPadding_eq_some_iff, hreverse]

theorem unpadBytes_eq_none_iff {b : List Byte} : unpadBytes b = none ↔ ∀ x ∈ b, x = 0x00#8 := by
  simp only [unpadBytes, Option.map_eq_none_iff, dropPadding_eq_none_iff, List.mem_reverse]

/-- Settles O35: on the reversed string `unpad` recurses through the zeros and stops at the byte it drops. -/
theorem unpadDropsZerosAndOneByte : Obligations.UnpadDropsZerosAndOneByte :=
  ⟨fun _ _ => unpadBytes_eq_some_iff, fun _ => unpadBytes_eq_none_iff⟩

theorem padMarker_ne_zero : padMarker ≠ 0x00#8 := by decide

@[simp] theorem unpadBytes_padBytes (m : List Byte) : unpadBytes (padBytes m) = some m :=
  unpadBytes_eq_some_iff.2 ⟨padMarker, padlen m.length - 1, padMarker_ne_zero, rfl⟩

/-- Settles O36: the marker is not zero, so the zeros `unpad` drops end at it, whatever `m` ends in. -/
theorem unpadUndoesPad : Obligations.UnpadUndoesPad := unpadBytes_padBytes

end Sys2Proof.Machine.Proofs
end

section
/-!
PROOF. The FINISH step (44_cbc_padding.md R124).
-/

namespace Sys2Proof.Machine.Proofs

/-- In the FINISH phase the engine's micro-step is `finish`, which never stops. -/
theorem engineStep_finish {s : State} (h : s.seq.phase = .finish) : engineStep s = .next s.finish := by
  rw [engineStep, h, finishStep]

/-- VERIFY_OK after FINISH, as the condition R124 states. -/
theorem finish_verifyOk_eq_decide (s : State) :
    s.finish.verifyOk = decide (s.op = opcode .verify ∧ s.epend = .none ∧ s.vok = true) := by
  rw [Laws.finish_verifyOk, Bool.eq_iff_iff]
  simp [and_assoc]

/-- Settles O26: the step is `finish`, whose VERIFY_OK is the condition R124 states. -/
theorem finishMicroStep : Obligations.FinishMicroStep := by
  intro s h
  rw [engineStep_finish h, ← finish_verifyOk_eq_decide]
  rfl

end Sys2Proof.Machine.Proofs
end

section
/-!
PROOF. A CMD write of any command as one operation: its checks, what it latches, and whether it is accepted
(60_exceptions.md R133 to R135).
-/

namespace Sys2Proof.Machine.Proofs

open Sys2Proof.Machine.Laws

/-! ### The checks -/

/-- The acceptance checks of a command in their order (60_exceptions.md R133, R134). -/
def checksOf (s : State) : Instr → List Check
  | .keygen | .blockEnc | .blockDec => [s.keyCheck]
  | .pad => [s.lenBelowCheck]
  | .unpad => [s.lenCheck]
  | .encrypt => [s.keyCheck, s.lenBelowCheck]
  | .decrypt => [s.keyCheck, s.blocksCheck, s.lenCheck]
  | .verify => [s.keyCheck, s.blocksCheck, s.lenCheck, s.vlenCheck]

theorem keyCheck_passes_iff (s : State) : s.keyCheck.1 = false ↔ s.keyPresent := by
  simp [State.keyCheck, State.keyPresent]

theorem lenBelowCheck_passes_iff (s : State) : s.lenBelowCheck.1 = false ↔ s.len.toNat ≤ Config.nBuf - 1 := by
  obtain ⟨-, hmin, -⟩ := nBuf_bounds
  rw [State.lenBelowCheck, decide_eq_false_iff_not]
  omega

theorem lenCheck_passes_iff (s : State) : s.lenCheck.1 = false ↔ s.len.toNat ≤ Config.nBuf := by
  simp [State.lenCheck]

theorem vlenCheck_passes_iff (s : State) : s.vlenCheck.1 = false ↔ s.vlen.toNat ≤ Config.nBuf := by
  simp [State.vlenCheck]

theorem blocksCheck_passes_iff (s : State) : s.blocksCheck.1 = false ↔ s.len.toNat ≠ 0 ∧ s.len.toNat % 8 = 0 := by
  simp [State.blocksCheck]

/-- Every check a command makes is one of the five. -/
theorem checksOf_subset (s : State) (i : Instr) :
    checksOf s i ⊆ [s.keyCheck, s.lenBelowCheck, s.lenCheck, s.vlenCheck, s.blocksCheck] := by
  cases i <;> simp [checksOf]

/-- The checks report three of the error codes only (60_exceptions.md R131). -/
theorem code_of_mem_checksOf {s : State} {i : Instr} {c : Check} (h : c ∈ checksOf s i) :
    c.2 = .invalidKeyLength ∨ c.2 = .invalidCiphertextLength ∨ c.2 = .lengthOverflow := by
  have hc := checksOf_subset s i h
  simp only [List.mem_cons, List.not_mem_nil, or_false] at hc
  obtain rfl | rfl | rfl | rfl | rfl := hc
  · exact .inl rfl
  · exact .inr (.inr rfl)
  · exact .inr (.inr rfl)
  · exact .inr (.inr rfl)
  · exact .inr (.inl rfl)

/-- An idle engine accepts a command exactly when each of its checks passes. -/
theorem accepts_iff_firstError {s : State} {i : Instr} :
    s.Accepts i ↔ s.busy = false ∧ firstError (checksOf s i) = none := by
  rw [State.Accepts, firstError_eq_none]
  refine and_congr_right fun _ => ?_
  cases i <;> simp [checksOf, needsKey, lengthsOk, keyCheck_passes_iff, lenBelowCheck_passes_iff, lenCheck_passes_iff,
    vlenCheck_passes_iff, blocksCheck_passes_iff, and_assoc]

/-! ### Acceptance and rejection -/

/-- What a command latches when it starts (60_exceptions.md R133). -/
def latchOf (s : State) (i : Instr) : Latch where
  dirn := dirOf i
  mode := modeOf i
  nblk := BitVec.ofNat 16 (startBlocks i s.len.toNat)
  rlen := BitVec.ofNat 32 (startResult i)
  first := firstPhase i

/-- The commands differ in their checks and in what they latch, and in nothing else a CMD write does. -/
theorem exec_eq_submit (i : Instr) (s : State) : exec i s = .next (s.submit i (checksOf s i) (latchOf s i)) := by
  cases i <;> rfl

theorem clearResults_reject (s : State) (e : ErrCode) : s.clearResults.reject e = s.rejectedWith e := rfl

theorem exec_of_accepts {i : Instr} {s : State} (h : s.Accepts i) :
    exec i s = .next (s.clearResults.start i (latchOf s i)) := by
  obtain ⟨hidle, hnone⟩ := accepts_iff_firstError.1 h
  simp [exec_eq_submit, State.submit, hidle, hnone]

/-- An idle engine that does not accept a command rejects it with the code of one of its checks. -/
theorem exec_of_not_accepts {i : Instr} {s : State} (hidle : s.busy = false) (h : ¬s.Accepts i) :
    ∃ e, (true, e) ∈ checksOf s i ∧ exec i s = .next (s.rejectedWith e) := by
  obtain ⟨e, he⟩ : ∃ e, firstError (checksOf s i) = some e :=
    Option.ne_none_iff_exists'.1 fun hnone => h (accepts_iff_firstError.2 ⟨hidle, hnone⟩)
  exact ⟨e, firstError_mem he, by simp [exec_eq_submit, State.submit, hidle, he, clearResults_reject]⟩

/-- What a CMD write of a command can do: it is dropped, accepted, or rejected with one of the three codes that checks
report. -/
theorem exec_cases {i : Instr} {s t : State} (h : exec i s = .next t) :
    (s.busy = true ∧ t = s.dropWrite) ∨ (s.Accepts i ∧ t = s.clearResults.start i (latchOf s i)) ∨
    (s.busy = false ∧ ¬s.Accepts i ∧
      ∃ e, (e = .invalidKeyLength ∨ e = .invalidCiphertextLength ∨ e = .lengthOverflow) ∧ t = s.rejectedWith e) := by
  by_cases hb : s.busy = true
  · exact .inl ⟨hb, Host.Outcome.next.inj (h.symm.trans (exec_busy hb i))⟩
  · have hidle : s.busy = false := Bool.eq_false_of_not_eq_true hb
    by_cases ha : s.Accepts i
    · exact .inr (.inl ⟨ha, Host.Outcome.next.inj (h.symm.trans (exec_of_accepts ha))⟩)
    · obtain ⟨e, hmem, he⟩ := exec_of_not_accepts hidle ha
      exact .inr (.inr ⟨hidle, ha, e, code_of_mem_checksOf hmem, Host.Outcome.next.inj (h.symm.trans he)⟩)

end Sys2Proof.Machine.Proofs
end

section
/-!
PROOF. EMPTY_INPUT is never raised (60_exceptions.md R150).
-/

namespace Sys2Proof.Machine.Proofs

open Sys2Proof.Machine.Laws

/-- Neither ERRCODE nor EPEND holds EMPTY_INPUT. -/
def NoEmptyInput (s : State) : Prop := s.errcode ≠ .emptyInput ∧ s.epend ≠ .emptyInput

theorem noEmptyInput_reset : NoEmptyInput State.reset := ⟨nofun, nofun⟩

/-- A rejection leaves its own code in ERRCODE and none in EPEND. -/
theorem noEmptyInput_rejectedWith {e : ErrCode} (h : e ≠ .emptyInput) (s : State) : NoEmptyInput (s.rejectedWith e) :=
  ⟨h, nofun⟩

/-- A CMD write drops the command, clears both codes, or rejects with a code of its own. -/
theorem exec_keeps_noEmptyInput {i : Instr} {s t : State} (h : exec i s = .next t) (hs : NoEmptyInput s) :
    NoEmptyInput t := by
  obtain ⟨-, rfl⟩ | ⟨-, rfl⟩ | ⟨-, -, e, he, rfl⟩ := exec_cases h
  · exact hs
  · exact ⟨nofun, nofun⟩
  · refine noEmptyInput_rejectedWith ?_ s
    rcases he with rfl | rfl | rfl <;> nofun

theorem cmdWrite_keeps_noEmptyInput {v : Word} {s t : State} (h : cmdWrite v s = .next t) (hs : NoEmptyInput s) :
    NoEmptyInput t := by
  obtain ⟨i, -, hi⟩ | ⟨-, rfl⟩ := cmdWrite_cases h
  · exact exec_keeps_noEmptyInput hi hs
  · obtain ⟨-, he⟩ | ⟨-, he⟩ := submitIllegal_cases s
    · rw [he]
      exact hs
    · rw [he, clearResults_reject]
      exact noEmptyInput_rejectedWith (e := .badCommand) nofun s

/-- No host write but one of CMD touches ERRCODE or EPEND. -/
theorem writePlace_keeps_noEmptyInput {p : Place} {v : Word} {s t : State} (h : writePlace p v s = .next t)
    (hs : NoEmptyInput s) : NoEmptyInput t := by
  obtain rfl | rfl | rfl | ⟨-, rfl⟩ | ⟨-, rfl | rfl | rfl | rfl | ⟨a, -, rfl⟩ | ⟨a, -, rfl⟩⟩ | ⟨-, hcmd⟩ :=
    writePlace_cases h
  case inr.inr.inr.inr.inr => exact cmdWrite_keeps_noEmptyInput hcmd hs
  all_goals exact hs

theorem hostStep_keeps_noEmptyInput {s t : State} (h : hostStep s = .next t) (hs : NoEmptyInput s) :
    NoEmptyInput t := by
  unfold hostStep at h
  split at h
  case h_1 =>
    cases h
    exact hs
  case h_2 op rest hprog =>
    obtain ⟨off, v, -, -, hwrite⟩ | ⟨v, n, p, rfl⟩ := hostAccess_cases h
    · exact writePlace_keeps_noEmptyInput hwrite hs
    · exact hs

/-- What a micro-step does to the error codes: only UNPAD sets EPEND, to PAD_UNDERFLOW (44_cbc_padding.md R122), and only
FINISH sets ERRCODE, to EPEND (R124). -/
theorem engineStep_codes {s t : State} (h : engineStep s = .next t) :
    (t.errcode = s.errcode ∧ t.epend = s.epend) ∨ (t.errcode = s.errcode ∧ t.epend = .padUnderflow) ∨
    (t.errcode = s.epend ∧ t.epend = s.epend) := by
  unfold engineStep at h
  cases hp : s.seq.phase <;> rw [hp] at h
  case idle =>
    cases h
    exact .inl ⟨rfl, rfl⟩
  case keygen => obtain ⟨-, rfl⟩ | ⟨-, p, -, rfl⟩ := keygenStep_cases h <;> exact .inl ⟨rfl, rfl⟩
  case pad => obtain ⟨-, ⟨-, rfl⟩ | ⟨-, rfl⟩⟩ := padStep_cases h <;> exact .inl ⟨rfl, rfl⟩
  case load =>
    obtain ⟨-, rfl⟩ := loadStep_cases h
    exact .inl ⟨rfl, rfl⟩
  case round =>
    obtain rfl := Host.Outcome.next.inj ((roundStep_eq s).symm.trans h)
    exact .inl ⟨rfl, rfl⟩
  case store =>
    obtain ⟨-, rfl⟩ := storeStep_cases h
    exact .inl ⟨rfl, rfl⟩
  case unpad =>
    obtain ⟨-, ⟨-, rfl⟩ | ⟨-, rfl⟩⟩ := unpadStep_cases h
    · exact .inr (.inl ⟨rfl, rfl⟩)
    · exact .inl ⟨rfl, rfl⟩
  case compare =>
    obtain ⟨-, rfl⟩ := compareStep_cases h
    exact .inl ⟨rfl, rfl⟩
  case finish =>
    cases h
    exact .inr (.inr ⟨rfl, rfl⟩)

theorem engineStep_keeps_noEmptyInput {s t : State} (h : engineStep s = .next t) (hs : NoEmptyInput s) :
    NoEmptyInput t := by
  obtain ⟨herr, hpend⟩ := hs
  rw [NoEmptyInput]
  obtain ⟨he, hp⟩ | ⟨he, hp⟩ | ⟨he, hp⟩ := engineStep_codes h <;> rw [he, hp]
  · exact ⟨herr, hpend⟩
  · exact ⟨herr, nofun⟩
  · exact ⟨hpend, hpend⟩

/-- Settles O54: host turns raise other codes, FINISH hands on the pending one, and a reset clears both. -/
theorem emptyInputNeverRaised : Obligations.EmptyInputNeverRaised := by
  intro s t h herr hpend
  have hs (sch : List Turn) : NoEmptyInput { s with sched := sch } := ⟨herr, hpend⟩
  obtain ⟨sch, hhost | hengine | ⟨hreset, -⟩⟩ := step_cases s
  · exact hostStep_keeps_noEmptyInput (hhost.symm.trans h) (hs sch)
  · exact engineStep_keeps_noEmptyInput (hengine.symm.trans h) (hs sch)
  · obtain rfl := Host.Outcome.next.inj (hreset.symm.trans h)
    exact noEmptyInput_reset

end Sys2Proof.Machine.Proofs
end

section
/-!
PROOF. The level of the interrupt output (60_exceptions.md R140, R141; 10_state.md R20).
-/

namespace Sys2Proof.Machine.Proofs

theorem writeCtrl_irq (s : State) (v : Word) : (s.writeCtrl v).irq = (s.done && v.getLsbD 0) := rfl

theorem writeStatus_irq (s : State) (v : Word) : (s.writeStatus v).irq = (s.irq && !v.getLsbD 1) :=
  Bool.and_right_comm s.done (!v.getLsbD 1) s.ie

theorem finish_irq (s : State) : s.finish.irq = s.ie := Bool.true_and s.ie

theorem rejectedWith_irq (s : State) (e : ErrCode) : (s.rejectedWith e).irq = s.ie := Bool.true_and s.ie

/-- An accepted command has cleared DONE, so IRQ is low whatever IE is. -/
theorem started_irq (s : State) (i : Instr) (k : Latch) : (s.clearResults.start i k).irq = false :=
  Bool.false_and s.ie

/-- Settles O48: each event that writes DONE or IE leaves the IRQ its own lemma above gives. -/
theorem interruptLevel : Obligations.InterruptLevel := by
  refine ⟨fun _ => rfl, ?ctrl, ?status, ?finish, ?illegal, ?rejected, ?accepted, rfl, fun _ => rfl⟩
  case ctrl =>
    intro s t v h
    rw [← Host.Outcome.next.inj h, writeCtrl_irq]
  case status =>
    intro s t v h
    rw [← Host.Outcome.next.inj h, writeStatus_irq]
  case finish =>
    intro s t hp h
    rw [← Host.Outcome.next.inj ((engineStep_finish hp).symm.trans h), finish_irq]
  case illegal =>
    intro w s hw hb
    exact ⟨_, by rw [cmdWrite_not_decoded hw, submitIllegal_idle hb], rejectedWith_irq s _⟩
  case rejected =>
    intro i s hb ha
    obtain ⟨e, -, he⟩ := exec_of_not_accepts hb ha
    exact ⟨_, he, rejectedWith_irq s e⟩
  case accepted =>
    intro i s ha
    exact ⟨_, exec_of_accepts ha, started_irq s i _⟩

end Sys2Proof.Machine.Proofs
end

section
/-!
PROOF. The micro-steps of the engine, one equation per phase (41_key_schedule.md R93; 43_block_cipher.md R108;
44_cbc_padding.md R119 to R123).
-/

namespace Sys2Proof.Machine.Proofs

open Sys2Proof.Machine.Laws

variable {s : State}

/-! ### The step that seq names -/

theorem engineStep_idle (h : s.seq.phase = .idle) : engineStep s = .next s := by rw [engineStep, h]
theorem engineStep_keygen (h : s.seq.phase = .keygen) : engineStep s = keygenStep s := by rw [engineStep, h]
theorem engineStep_pad (h : s.seq.phase = .pad) : engineStep s = padStep s := by rw [engineStep, h]
theorem engineStep_load (h : s.seq.phase = .load) : engineStep s = loadStep s := by rw [engineStep, h]
theorem engineStep_round (h : s.seq.phase = .round) : engineStep s = roundStep s := by rw [engineStep, h]
theorem engineStep_store (h : s.seq.phase = .store) : engineStep s = storeStep s := by rw [engineStep, h]
theorem engineStep_unpad (h : s.seq.phase = .unpad) : engineStep s = unpadStep s := by rw [engineStep, h]
theorem engineStep_compare (h : s.seq.phase = .compare) : engineStep s = compareStep s := by rw [engineStep, h]

/-! ### KEYGEN -/

/-- The phase after KEYGEN is the second one of the command (10_state.md R31). -/
theorem phaseAfterKeygen_opcode {i : Instr} (h : needsKey i = true) :
    phaseAfterKeygen (opcode i) = some ((phasesOf i).getD 1 .finish) := by
  cases i <;> cases h <;> rfl

theorem keygenStep_next (h : s.seq.round.toNat < 15) :
    keygenStep s = .next (s.keygenData.goto .keygen 0#16 (s.seq.round + 1#4)) := by
  rw [keygenStep, if_pos h]

theorem keygenStep_last (h : s.seq.round.toNat = 15) {p : Phase} (hp : phaseAfterKeygen s.op = some p) :
    keygenStep s = .next (State.goto { s.keygenData with ksv := true } p 0#16 0#4) := by
  rw [keygenStep, if_neg (by omega), hp]

theorem round_eq_zero_iff : s.seq.round = 0#4 ↔ s.seq.round.toNat = 0 := by
  rw [← BitVec.toNat_inj]
  rfl

/-- The halves KEYGEN step r rotates, each said as R93 says it. -/
theorem keygenHalves_eq :
    s.keygenHalves = (if s.seq.round.toNat = 0 then substr (permPC1 s.keyreg) 0 28 else s.c,
      if s.seq.round.toNat = 0 then substr (permPC1 s.keyreg) 28 28 else s.d) := by
  simp only [State.keygenHalves, round_eq_zero_iff, keyHalves]
  split_ifs <;> rfl

/-- Settles O22: round 15 sets KSV and leaves for the command's second phase, every other round for the next one. -/
theorem keygenMicroStep : Obligations.KeygenMicroStep := by
  intro s i hphase hop hkey r C D
  have hC : (rotateHalves r s.keygenHalves).1 = C := by rw [keygenHalves_eq]; rfl
  have hD : (rotateHalves r s.keygenHalves).2 = D := by rw [keygenHalves_eq]; rfl
  have hlt : r < 16 := s.seq.round.isLt
  rw [engineStep_keygen hphase]
  by_cases hr : r < 15
  · have hne : r ≠ 15 := by omega
    rw [keygenStep_next hr, ← hC, ← hD, if_pos hr, if_neg hne]
    simp only [r, ← round_eq_zero_iff]
    rfl
  · have heq : r = 15 := by omega
    have hp : phaseAfterKeygen s.op = some ((phasesOf i).getD 1 .finish) := by rw [hop, phaseAfterKeygen_opcode hkey]
    rw [keygenStep_last heq hp, ← hC, ← hD, if_neg hr, if_pos heq]
    rfl

/-! ### ROUND -/

/-- The subkey of round r by the direction, said as R108 says it. -/
theorem roundKey_eq_ite (ks : Vector Subkey 16) (dir : Dir) (r : BitVec 4) :
    roundKey ks dir r = if dir = .enc then ks[r.toFin] else ks[(15#4 - r).toFin] := by
  cases dir <;> rfl

/-- Settles O23: the step is one Feistel round with the subkey of the direction. -/
theorem roundMicroStep : Obligations.RoundMicroStep := by
  intro s hphase
  rw [engineStep_round hphase, roundStep_eq, ← roundKey_eq_ite]
  rfl

/-! ### LOAD and STORE -/

theorem loadInput_eq_ite (blk : Block) : s.loadInput blk = if s.mode = .cbce then blk ^^^ s.loadIV else blk := by
  cases h : s.mode <;> simp [State.loadInput, h]

theorem storeOutput_eq_ite :
    s.storeOutput = if s.mode = .cbcd then joinBlock (s.l, s.r) ^^^ s.iv else joinBlock (s.l, s.r) := by
  cases h : s.mode <;> simp [State.storeOutput, h]

theorem storeIV_eq_ite :
    s.storeIV = if s.mode = .ecb1 then s.iv else if s.mode = .cbce then joinBlock (s.l, s.r) else s.csave := by
  cases h : s.mode <;> simp [State.storeIV, h]

theorem loadStep_next (h : 8 * s.seq.block.toNat + 8 ≤ Config.nBuf) :
    loadStep s = .next ((s.loadData (s.mbuf.readBlock s.seq.block.toNat)).goto .round s.seq.block 0#4) := by
  rw [loadStep, if_pos h]

theorem storeStep_next (h : 8 * s.seq.block.toNat + 8 ≤ Config.nBuf) :
    storeStep s = .next { s with
      mbuf := s.mbuf.writeBlock s.seq.block.toNat s.storeOutput, iv := s.storeIV, seq := s.storeNext } := by
  rw [storeStep, if_pos h]

/-- Settles O24: the block lies in MBUF, so both steps answer, and MODE selects each of their operands. -/
theorem loadAndStoreMicroSteps : Obligations.LoadAndStoreMicroSteps := by
  intro s hrange
  refine ⟨fun hphase => ?load, fun hphase => ?store⟩
  case load =>
    rw [engineStep_load hphase, loadStep_next hrange, State.loadData, loadInput_eq_ite]
    rfl
  case store =>
    rw [engineStep_store hphase, storeStep_next hrange, storeOutput_eq_ite, storeIV_eq_ite]
    rfl

/-! ### PAD, UNPAD and COMPARE -/

/-- PAD goes on to the blocks for ENCRYPT and ends every other command (44_cbc_padding.md R121). -/
theorem padStep_next (h : s.paddedLen ≤ Config.nBuf) :
    padStep s = .next (State.goto
      { s.padData with nblk := if s.op = opcode .encrypt then BitVec.ofNat 16 (s.paddedLen / 8) else 0#16 }
      (if s.op = opcode .encrypt then .load else .finish) 0#16 0#4) := by
  rw [padStep, if_pos h]
  split_ifs <;> rfl

theorem unpadStep_next (h : s.nlen.toNat ≤ Config.nBuf) :
    unpadStep s = .next (if s.nlen.toNat < s.zeroTail + 1 then s.raise .padUnderflow
      else State.goto { s with rlen := BitVec.ofNat 32 (s.nlen.toNat - s.zeroTail - 1) }
        (if s.op = opcode .verify then .compare else .finish) s.seq.block 0#4) := by
  rw [unpadStep, if_pos h]
  split_ifs <;> rfl

theorem compareStep_next (h : s.rlen ≠ s.nvlen ∨ s.rlen.toNat ≤ Config.nBuf) :
    compareStep s = .next (State.goto { s with vok := s.compareResult } .finish s.seq.block 0#4) := by
  rw [compareStep, if_pos h]

/-- The bytes of the padding: the marker, then zeros (44_cbc_padding.md R113). -/
theorem padTail_getD_zero (n : Nat) : (padTail n).getD 0 0x00#8 = 0x80#8 := rfl

theorem padTail_getD_pos (n : Nat) {j : Nat} (hj : 0 < j) : (padTail n).getD j 0x00#8 = 0x00#8 := by
  obtain ⟨k, rfl⟩ := Nat.exists_eq_add_of_lt hj
  rw [Nat.zero_add, padTail, List.getD_cons_succ, List.getD_eq_getElem?_getD, List.getElem?_replicate]
  split_ifs <;> rfl

/-- What PAD leaves in MBUF: the marker, the zeros, and every other byte (44_cbc_padding.md R121). -/
theorem read_writeList_padTail (m : Memory) (n : Nat) :
    (m.writeList n (padTail n)).read n = 0x80#8 ∧
    (∀ a, n < a → a < n + padlen n → (m.writeList n (padTail n)).read a = 0x00#8) ∧
    ∀ a, a < n ∨ n + padlen n ≤ a → (m.writeList n (padTail n)).read a = m.read a := by
  have hone := one_le_padlen n
  simp only [read_writeList, length_padTail]
  refine ⟨?_, fun a hlo hhi => ?_, fun a ha => ?_⟩
  · rw [if_pos (by omega), Nat.sub_self, padTail_getD_zero]
  · rw [if_pos (by omega), padTail_getD_pos n (by omega)]
  · rw [if_neg (by omega)]

/-- Two ranges of bytes are equal exactly when their bytes are. -/
theorem bytes_eq_bytes_iff {m m' : Memory} {off n : Nat} :
    m.bytes off n = m'.bytes off n ↔ ∀ j, j < n → m.read (off + j) = m'.read (off + j) := by
  simp [Memory.bytes]

/-- COMPARE's result: equal lengths and equal bytes (44_cbc_padding.md R123). -/
theorem compareResult_eq_decide :
    s.compareResult = decide (s.rlen = s.nvlen ∧ ∀ j, j < s.rlen.toNat → s.mbuf.read j = s.vbuf.read j) := by
  rw [State.compareResult, Bool.decide_and, Bool.eq_iff_iff, Bool.and_eq_true, Bool.and_eq_true, beq_iff_eq,
    bytes_eq_bytes_iff, decide_eq_true_iff, decide_eq_true_iff]
  simp only [Nat.zero_add]

/-- Settles O25: the bytes lie in the buffers, so each step answers; the byte scans are those of the buffer laws. -/
theorem padUnpadCompareMicroSteps : Obligations.PadUnpadCompareMicroSteps := by
  intro s
  refine ⟨fun hphase hrange => ?pad, fun hphase hrange => ?unpad, fun hphase hrange => ?compare⟩
  case pad =>
    obtain ⟨hmarker, hzeros, hother⟩ := read_writeList_padTail s.mbuf s.nlen.toNat
    refine ⟨s.padData.mbuf, hmarker, hzeros, hother, ?_⟩
    rw [engineStep_pad hphase, padStep_next hrange]
    rfl
  case unpad =>
    obtain ⟨hle, hzeros, hstop⟩ := trailingZeros_spec s.mbuf s.nlen.toNat
    refine ⟨s.zeroTail, hle, hzeros, hstop, ?_⟩
    rw [engineStep_unpad hphase, unpadStep_next hrange]
    rfl
  case compare =>
    rw [engineStep_compare hphase, compareStep_next (.inr hrange), compareResult_eq_decide]
    rfl

end Sys2Proof.Machine.Proofs
end

section
/-!
PROOF. What one turn can do, once for all statements about steps: the micro-steps of the engine and the effects of the host's
turn as inductive cases, and what no micro-step changes (10_state.md R27 to R34, R43; 20_memory.md R53).
-/

namespace Sys2Proof.Machine.Proofs

open Sys2Proof.Machine.Laws

/-! ### Micro-steps of the engine -/

/-- The ways the engine gets from `s` to a next state: one per phase, or two where the phase has two exits. -/
inductive MicroStep (s : State) : State → Prop
  | idle (hphase : s.seq.phase = .idle) : MicroStep s s
  | keygenNext (hphase : s.seq.phase = .keygen) (hr : s.seq.round.toNat < 15) :
      MicroStep s (s.keygenData.goto .keygen 0#16 (s.seq.round + 1#4))
  | keygenLast (hphase : s.seq.phase = .keygen) (hr : s.seq.round.toNat = 15) (p : Phase)
      (hp : phaseAfterKeygen s.op = some p) : MicroStep s (State.goto { s.keygenData with ksv := true } p 0#16 0#4)
  | padBlocks (hphase : s.seq.phase = .pad) (hrange : s.paddedLen ≤ Config.nBuf) (hop : s.op = opcode .encrypt) :
      MicroStep s (State.goto { s.padData with nblk := BitVec.ofNat 16 (s.paddedLen / 8) } .load 0#16 0#4)
  | padOnly (hphase : s.seq.phase = .pad) (hrange : s.paddedLen ≤ Config.nBuf) (hop : s.op ≠ opcode .encrypt) :
      MicroStep s (State.goto { s.padData with nblk := 0#16 } .finish 0#16 0#4)
  | load (hphase : s.seq.phase = .load) :
      MicroStep s ((s.loadData (s.mbuf.readBlock s.seq.block.toNat)).goto .round s.seq.block 0#4)
  | round (hphase : s.seq.phase = .round) (p : Phase) (r : BitVec 4) (hp : p = .round ∨ p = .store ∧ r = 0#4) :
      MicroStep s { s with
        l := (feistelRound Config.twist (roundKey s.ks s.dirn s.seq.round) (s.l, s.r)).1
        r := (feistelRound Config.twist (roundKey s.ks s.dirn s.seq.round) (s.l, s.r)).2
        seq := { phase := p, block := s.seq.block, round := r } }
  | store (hphase : s.seq.phase = .store) (hrange : 8 * s.seq.block.toNat + 8 ≤ Config.nBuf) :
      MicroStep s { s with
        mbuf := s.mbuf.writeBlock s.seq.block.toNat s.storeOutput, iv := s.storeIV, seq := s.storeNext }
  | unpadError (hphase : s.seq.phase = .unpad) : MicroStep s (s.raise .padUnderflow)
  | unpadDone (hphase : s.seq.phase = .unpad) (hrange : s.nlen.toNat ≤ Config.nBuf) :
      MicroStep s (State.goto { s with rlen := BitVec.ofNat 32 (s.nlen.toNat - s.zeroTail - 1) }
        (if s.op = opcode .verify then .compare else .finish) s.seq.block 0#4)
  | compare (hphase : s.seq.phase = .compare) :
      MicroStep s (State.goto { s with vok := s.compareResult } .finish s.seq.block 0#4)
  | finish (hphase : s.seq.phase = .finish) : MicroStep s s.finish

theorem microStep_of_engineStep {s t : State} (h : engineStep s = .next t) : MicroStep s t := by
  cases hphase : s.seq.phase
  case idle =>
    obtain rfl := Host.Outcome.next.inj ((engineStep_idle hphase).symm.trans h)
    exact .idle hphase
  case keygen =>
    obtain ⟨hr, rfl⟩ | ⟨hr, p, hp, rfl⟩ := keygenStep_cases ((engineStep_keygen hphase).symm.trans h)
    · exact .keygenNext hphase hr
    · exact .keygenLast hphase hr p hp
  case pad =>
    obtain ⟨hrange, ⟨hop, rfl⟩ | ⟨hop, rfl⟩⟩ := padStep_cases ((engineStep_pad hphase).symm.trans h)
    · exact .padBlocks hphase hrange hop
    · exact .padOnly hphase hrange hop
  case load =>
    obtain ⟨-, rfl⟩ := loadStep_cases ((engineStep_load hphase).symm.trans h)
    exact .load hphase
  case round =>
    obtain rfl := Host.Outcome.next.inj ((roundStep_eq s).symm.trans ((engineStep_round hphase).symm.trans h))
    split_ifs
    · exact .round hphase .round _ (.inl rfl)
    · exact .round hphase .store 0#4 (.inr ⟨rfl, rfl⟩)
  case store =>
    obtain ⟨hrange, rfl⟩ := storeStep_cases ((engineStep_store hphase).symm.trans h)
    exact .store hphase hrange
  case unpad =>
    obtain ⟨hrange, ⟨-, rfl⟩ | ⟨-, rfl⟩⟩ := unpadStep_cases ((engineStep_unpad hphase).symm.trans h)
    · exact .unpadError hphase
    · exact .unpadDone hphase hrange
  case compare =>
    obtain ⟨-, rfl⟩ := compareStep_cases ((engineStep_compare hphase).symm.trans h)
    exact .compare hphase
  case finish =>
    obtain rfl := Host.Outcome.next.inj ((engineStep_finish hphase).symm.trans h)
    exact .finish hphase

/-! ### What no micro-step changes -/

/-- `t` has the host's registers, the key, VBUF, the host's side of the bus and the latched operands of `s`. -/
structure EngineFrame (s t : State) : Prop where
  ie : t.ie = s.ie
  wdrop : t.wdrop = s.wdrop
  key0Set : t.key0Set = s.key0Set
  key1Set : t.key1Set = s.key1Set
  keyreg : t.keyreg = s.keyreg
  len : t.len = s.len
  vlen : t.vlen = s.vlen
  vbuf : t.vbuf = s.vbuf
  draws : t.draws = s.draws
  prog : t.prog = s.prog
  sched : t.sched = s.sched
  replies : t.replies = s.replies
  op : t.op = s.op
  nlen : t.nlen = s.nlen
  nvlen : t.nvlen = s.nvlen
  dirn : t.dirn = s.dirn
  mode : t.mode = s.mode

theorem MicroStep.frame {s t : State} (h : MicroStep s t) : EngineFrame s t := by
  cases h <;> constructor <;> rfl

/-- Settles O51: the frame of a micro-step holds all of them. -/
theorem engineLeavesHostRegisters : Obligations.EngineLeavesHostRegisters := by
  intro s t h
  have hf := (microStep_of_engineStep h).frame
  exact ⟨hf.ie, hf.wdrop, hf.key0Set, hf.key1Set, hf.keyreg, hf.len, hf.vlen, hf.vbuf, hf.draws, hf.prog, hf.sched,
    hf.replies⟩

/-- BUSY and the results of `t` are those of `s`. -/
structure SameResults (s t : State) : Prop where
  busy : t.busy = s.busy
  done : t.done = s.done
  verifyOk : t.verifyOk = s.verifyOk
  errcode : t.errcode = s.errcode
  outlen : t.outlen = s.outlen

/-- Only FINISH writes BUSY and the results (44_cbc_padding.md R124). -/
theorem MicroStep.sameResults {s t : State} (h : MicroStep s t) (hne : s.seq.phase ≠ .finish) : SameResults s t := by
  cases h
  case finish hphase => exact absurd hphase hne
  all_goals constructor <;> rfl

/-! ### Turns of the host -/

/-- What a turn of the host can do to the state in which its transaction has left the list. -/
inductive HostEffect (s : State) : State → Prop
  | none : HostEffect s s
  | read (v : Word) (n : Nat) (p : List HostOp) :
      HostEffect s { s with replies := v :: s.replies, draws := n, prog := p }
  | ctrl (v : Word) : HostEffect s (s.writeCtrl v)
  | status (v : Word) : HostEffect s (s.writeStatus v)
  | drop (hbusy : s.busy = true) : HostEffect s s.dropWrite
  | len (hidle : s.busy = false) (v : Word) : HostEffect s { s with len := v }
  | vlen (hidle : s.busy = false) (v : Word) : HostEffect s { s with vlen := v }
  | key0 (hidle : s.busy = false) (v : Word) : HostEffect s (s.setKey0 v)
  | key1 (hidle : s.busy = false) (v : Word) : HostEffect s (s.setKey1 v)
  | mbuf (hidle : s.busy = false) (a : Nat) (ha : a + 4 ≤ Config.nBuf) (v : Word) :
      HostEffect s { s with mbuf := s.mbuf.writeBytes a 4 v }
  | vbuf (hidle : s.busy = false) (a : Nat) (ha : a + 4 ≤ Config.nBuf) (v : Word) :
      HostEffect s { s with vbuf := s.vbuf.writeBytes a 4 v }
  | accepted (i : Instr) (ha : s.Accepts i) : HostEffect s (s.clearResults.start i (latchOf s i))
  | rejected (hidle : s.busy = false) (e : ErrCode) (he : e ≠ .emptyInput) : HostEffect s (s.rejectedWith e)

theorem hostEffect_of_cmdWrite {v : Word} {s t : State} (h : cmdWrite v s = .next t) : HostEffect s t := by
  obtain ⟨i, -, hi⟩ | ⟨-, rfl⟩ := cmdWrite_cases h
  · obtain ⟨hbusy, rfl⟩ | ⟨ha, rfl⟩ | ⟨hidle, -, e, he, rfl⟩ := exec_cases hi
    · exact .drop hbusy
    · exact .accepted i ha
    · exact .rejected hidle e (by rcases he with rfl | rfl | rfl <;> nofun)
  · obtain ⟨hbusy, he⟩ | ⟨hidle, he⟩ := submitIllegal_cases s <;> rw [he]
    · exact .drop hbusy
    · exact .rejected hidle .badCommand nofun

theorem hostEffect_of_hostAccess {op : HostOp} {s t : State} (h : hostAccess op s = .next t) : HostEffect s t := by
  obtain ⟨off, v, -, hal, hwrite⟩ | ⟨v, n, p, rfl⟩ := hostAccess_cases h
  case inr => exact .read v n p
  obtain rfl | rfl | rfl | ⟨hbusy, rfl⟩ | ⟨hidle, rfl | rfl | rfl | rfl | ⟨a, hp, rfl⟩ | ⟨a, hp, rfl⟩⟩ | ⟨-, hcmd⟩ :=
    writePlace_cases hwrite
  · exact .none
  · exact .ctrl v
  · exact .status v
  · exact .drop hbusy
  · exact .len hidle v
  · exact .vlen hidle v
  · exact .key0 hidle v
  · exact .key1 hidle v
  · exact .mbuf hidle a (placeOf_buffer hal (.inl hp)).2 v
  · exact .vbuf hidle a (placeOf_buffer hal (.inr hp)).2 v
  · exact hostEffect_of_cmdWrite hcmd

theorem hostEffect_of_hostStep {s t : State} (h : hostStep s = .next t) :
    ∃ p, HostEffect { s with prog := p } t := by
  unfold hostStep at h
  split at h
  case h_1 =>
    cases h
    exact ⟨s.prog, .none⟩
  case h_2 op rest _ => exact ⟨rest, hostEffect_of_hostAccess h⟩

end Sys2Proof.Machine.Proofs
end

section
/-!
PROOF. The invariant of runs: every step keeps it, and under it no step faults (10_state.md R19, R31, R39; 20_memory.md R52,
R53; 60_exceptions.md R132, R134).
-/

namespace Sys2Proof.Machine.Proofs

open Sys2Proof.Machine.Laws

/-! ### The phases of a command -/

theorem decodeOp_opcode (i : Instr) : decodeOp (opcode i).toNat = .ok i := by cases i <;> rfl

theorem opcode_injective {i j : Instr} (h : opcode i = opcode j) : i = j :=
  Decoded.ok.inj ((decodeOp_opcode i).symm.trans (h ▸ decodeOp_opcode j))

theorem idle_notMem_phasesOf (i : Instr) : Phase.idle ∉ phasesOf i := by cases i <;> decide

theorem finish_mem_phasesOf (i : Instr) : Phase.finish ∈ phasesOf i := by cases i <;> decide

theorem firstPhase_mem_phasesOf (i : Instr) : firstPhase i ∈ phasesOf i := by cases i <;> decide

/-- A command that loads blocks transforms and stores them. -/
theorem round_store_mem_phasesOf {i : Instr} (h : Phase.load ∈ phasesOf i ∨ Phase.round ∈ phasesOf i ∨ Phase.store ∈ phasesOf i) :
    Phase.load ∈ phasesOf i ∧ Phase.round ∈ phasesOf i ∧ Phase.store ∈ phasesOf i := by
  cases i <;> revert h <;> decide

/-- PAD and ENCRYPT alone have a PAD phase (10_state.md R31). -/
theorem eq_of_pad_mem_phasesOf {i : Instr} (h : Phase.pad ∈ phasesOf i) : i = .pad ∨ i = .encrypt := by
  cases i <;> revert h <;> decide

/-- The phase that follows KEYGEN is one of the command's, and its blocks are numbered from 0 when it is LOAD. -/
theorem afterKeygen_spec {i : Instr} {p : Phase} (h : phaseAfterKeygen (opcode i) = some p) (n v : Nat) :
    p ∈ phasesOf i ∧ (p = .finish ∨ p = .load ∨ p = .pad) ∧ blocksWhile i p n = blocksWhile i .keygen n ∧
      (p = .load → lengthsOk i n v → 0 < blocksWhile i .keygen n) := by
  cases i <;> cases h <;> simp [phasesOf, blocksWhile, startBlocks, lengthsOk] <;> omega

/-- NBLK stands once KEYGEN and PAD are done (44_cbc_padding.md R121). -/
theorem blocksWhile_eq {i : Instr} {p q : Phase} (n : Nat) (hp : p ≠ .keygen ∧ p ≠ .pad) (hq : q ≠ .keygen ∧ q ≠ .pad) :
    blocksWhile i p n = blocksWhile i q n := by
  cases i <;> simp [blocksWhile, hp, hq]

/-! ### Lengths that fit their registers -/

theorem toNat_ofNat_word {n : Nat} (h : n ≤ Config.nBuf) : (BitVec.ofNat 32 n).toNat = n := by
  obtain ⟨-, -, hmax⟩ := nBuf_bounds
  exact Nat.mod_eq_of_lt (by omega)

theorem toNat_ofNat_blocks {n : Nat} (h : n ≤ Config.nBuf) : (BitVec.ofNat 16 (n / 8)).toNat = n / 8 := by
  obtain ⟨-, -, hmax⟩ := nBuf_bounds
  exact Nat.mod_eq_of_lt (by omega)

theorem add_padlen_div_eight (n : Nat) : (n + padlen n) / 8 = n / 8 + 1 := by
  unfold padlen; omega

/-- A message of at most N_BUF - 1 bytes still fits when it is padded, N_BUF being a multiple of 8. -/
theorem add_padlen_le_nBuf {n : Nat} (h : n ≤ Config.nBuf - 1) : n + padlen n ≤ Config.nBuf := by
  obtain ⟨hmod, hmin, -⟩ := nBuf_bounds
  unfold padlen
  omega

theorem toNat_succ_block {b n : BitVec 16} (h : b.toNat + 1 < n.toNat) : (b + 1#16).toNat = b.toNat + 1 := by
  have := n.isLt
  rw [BitVec.toNat_add]
  exact Nat.mod_eq_of_lt (by simp; omega)

/-! ### What the invariant needs of an idle and of a running state -/

/-- A buffer in canonical form that lists nothing at or above N_BUF. -/
def Sound (m : Memory) : Prop := m.wf = true ∧ m.inRange = true

theorem Sound.writeBytes {m : Memory} (h : Sound m) {a n : Nat} (ha : a + n ≤ Config.nBuf) (v : BitVec (8 * n)) :
    Sound (m.writeBytes a n v) := ⟨writeBytes_wf h.1 a n v, writeBytes_inRange h.2 a n v ha⟩

theorem Sound.writeList {m : Memory} (h : Sound m) {a : Nat} {bs : List Byte} (ha : a + bs.length ≤ Config.nBuf) :
    Sound (m.writeList a bs) := ⟨writeList_wf h.1 a bs, writeList_inRange h.2 ha⟩

theorem Sound.writeBlock {m : Memory} (h : Sound m) {i : Nat} (hi : 8 * i + 8 ≤ Config.nBuf) (v : Block) :
    Sound (m.writeBlock i v) := ⟨writeBlock_wf h.1 i v, writeBlock_inRange h.2 v hi⟩

theorem sound_afterReset (m : Memory) : Sound m.afterReset := ⟨afterReset_wf m, afterReset_inRange m⟩

theorem mbuf_sound {s : State} (h : s.Inv) : Sound s.mbuf := ⟨h.mbufWf, h.mbufRange⟩

theorem vbuf_sound {s : State} (h : s.Inv) : Sound s.vbuf := ⟨h.vbufWf, h.vbufRange⟩

theorem phase_idle_of_inv {s : State} (h : s.Inv) (hidle : s.busy = false) : s.seq.phase = .idle := by
  by_contra hne
  exact absurd (h.busyPhase.2 hne) (by simp [hidle])

/-- What the invariant asks of an idle state. -/
theorem inv_of_idle {t : State} (hm : Sound t.mbuf) (hv : Sound t.vbuf) (hidle : t.busy = false)
    (hphase : t.seq.phase = .idle) (hround : t.seq.round = 0#4) (herr : t.errcode ≠ .emptyInput)
    (hpend : t.epend = .none ∨ t.epend = .padUnderflow) (hout : t.outlen.toNat ≤ Config.nBuf) : t.Inv where
  mbufWf := hm.1
  vbufWf := hv.1
  mbufRange := hm.2
  vbufRange := hv.2
  busyPhase := by simp [hidle, hphase]
  round := fun _ _ => hround
  quiet := fun hb => absurd hb (by simp [hidle])
  command := fun hb => absurd hb (by simp [hidle])
  errcode := herr
  epend := hpend
  outlen := hout

/-- The results read zero (60_exceptions.md R133). -/
def Quiet (s : State) : Prop := s.done = false ∧ s.verifyOk = false ∧ s.errcode = .none ∧ s.outlen = 0#32

/-- What the invariant asks of a state in which command `i` runs. -/
theorem inv_of_runs {t : State} {i : Instr} (hm : Sound t.mbuf) (hv : Sound t.vbuf) (hbusy : t.busy = true)
    (hround : t.seq.phase ≠ .keygen → t.seq.phase ≠ .round → t.seq.round = 0#4) (hquiet : Quiet t) (hi : t.Runs i)
    (hpend : t.epend = .none ∨ t.epend = .padUnderflow) : t.Inv where
  mbufWf := hm.1
  vbufWf := hv.1
  mbufRange := hm.2
  vbufRange := hv.2
  busyPhase := by
    refine iff_of_true hbusy fun hidle => idle_notMem_phasesOf i ?_
    exact hidle ▸ hi.phase
  round := hround
  quiet := fun _ => hquiet
  command := fun _ => ⟨i, hi⟩
  errcode := by simp [hquiet.2.2.1]
  epend := hpend
  outlen := by simp [hquiet.2.2.2]

/-! ### The host keeps the invariant -/

/-- The invariant speaks of nothing that two states of the same command may differ in, but for DONE. -/
theorem inv_of_sameCommand {s t : State} (hst : s.SameCommand t) (hdone : s.done = false → t.done = false)
    (hs : s.Inv) : t.Inv := by
  have runs {i : Instr} (hi : s.Runs i) (ie done wdrop : Bool) (draws : Nat) (prog : List HostOp) (sched : List Turn)
      (replies : List Word) : State.Runs { s with
        ie := ie, done := done, wdrop := wdrop, draws := draws, prog := prog, sched := sched, replies := replies } i :=
    ⟨hi.op, hi.phase, hi.key, hi.dirn, hi.mode, hi.lengths, hi.blocks, hi.block, hi.result, hi.pending⟩
  rw [State.SameCommand] at hst
  rw [hst]
  refine ⟨hs.mbufWf, hs.vbufWf, hs.mbufRange, hs.vbufRange, hs.busyPhase, hs.round, fun hb => ?_, fun hb => ?_,
    hs.errcode, hs.epend, hs.outlen⟩
  · obtain ⟨hd, hrest⟩ := hs.quiet hb
    exact ⟨hdone hd, hrest⟩
  · obtain ⟨i, hi⟩ := hs.command hb
    exact ⟨i, runs hi _ _ _ _ _ _ _⟩

/-- A write that an idle engine performs keeps the invariant when it keeps the status, `seq` and the form of the buffers. -/
theorem inv_of_idle_write {s t : State} (hs : s.Inv) (hidle : s.busy = false) (hm : Sound t.mbuf) (hv : Sound t.vbuf)
    (hbusy : t.busy = s.busy) (hseq : t.seq = s.seq) (herr : t.errcode = s.errcode) (hpend : t.epend = s.epend)
    (hout : t.outlen = s.outlen) : t.Inv := by
  have hphase := phase_idle_of_inv hs hidle
  have hround : s.seq.round = 0#4 := hs.round (by simp [hphase]) (by simp [hphase])
  exact inv_of_idle hm hv (hbusy.trans hidle) (hseq ▸ hphase) (hseq ▸ hround) (herr ▸ hs.errcode) (hpend ▸ hs.epend)
    (hout ▸ hs.outlen)

/-- An accepted command runs, in its first phase (60_exceptions.md R133). -/
theorem runs_of_accepts {s : State} {i : Instr} (ha : s.Accepts i) : (s.clearResults.start i (latchOf s i)).Runs i where
  op := rfl
  phase := firstPhase_mem_phasesOf i
  key := ha.2.1
  dirn := rfl
  mode := rfl
  lengths := ha.2.2
  blocks := by
    have hlen := ha.2.2
    have hfit {n : Nat} (hn : n ≤ Config.nBuf) := toNat_ofNat_blocks hn
    cases i <;> simp_all [latchOf, blocksWhile, startBlocks, firstPhase, lengthsOk]
  block := by cases i <;> simp [latchOf, firstPhase]
  result := by
    obtain ⟨-, hmin, -⟩ := nBuf_bounds
    cases i <;> simp [latchOf, startResult]
    all_goals omega
  pending := fun _ => rfl

theorem HostEffect.keeps_inv {s t : State} (h : HostEffect s t) (hs : s.Inv) : t.Inv := by
  have hm := mbuf_sound hs
  have hv := vbuf_sound hs
  cases h
  case none => exact hs
  case read v n p => exact inv_of_sameCommand rfl id hs
  case ctrl v => exact inv_of_sameCommand rfl id hs
  case status v => exact inv_of_sameCommand rfl (fun hd => by simp [hd]) hs
  case drop hbusy => exact inv_of_sameCommand rfl id hs
  case len hidle v => exact inv_of_idle_write hs hidle hm hv rfl rfl rfl rfl rfl
  case vlen hidle v => exact inv_of_idle_write hs hidle hm hv rfl rfl rfl rfl rfl
  case key0 hidle v => exact inv_of_idle_write hs hidle hm hv rfl rfl rfl rfl rfl
  case key1 hidle v => exact inv_of_idle_write hs hidle hm hv rfl rfl rfl rfl rfl
  case mbuf hidle a ha v => exact inv_of_idle_write hs hidle (hm.writeBytes ha v) hv rfl rfl rfl rfl rfl
  case vbuf hidle a ha v => exact inv_of_idle_write hs hidle hm (hv.writeBytes ha v) rfl rfl rfl rfl rfl
  case accepted i ha =>
    exact inv_of_runs hm hv rfl (fun _ _ => rfl) ⟨rfl, rfl, rfl, rfl⟩ (runs_of_accepts ha) (.inl rfl)
  case rejected hidle e he => exact inv_of_idle hm hv hidle rfl rfl he (.inl rfl) (Nat.zero_le _)

theorem hostStep_keeps_inv {s t : State} (h : hostStep s = .next t) (hs : s.Inv) : t.Inv := by
  obtain ⟨p, he⟩ := hostEffect_of_hostStep h
  exact he.keeps_inv (inv_of_sameCommand rfl id hs)

/-! ### The engine keeps the invariant -/

/-- NBLK of a running command stands from its KEYGEN and PAD phases on. -/
theorem blocks_of_runs {s : State} {i : Instr} (hi : s.Runs i) {p : Phase}
    (hs : s.seq.phase ≠ .keygen ∧ s.seq.phase ≠ .pad) (hp : p ≠ .keygen ∧ p ≠ .pad) :
    s.nblk.toNat = blocksWhile i p s.nlen.toNat :=
  hi.blocks.trans (blocksWhile_eq _ hs hp)

/-- Where STORE goes: to LOAD of the next block, or, after the last one, to a later phase of the command
(44_cbc_padding.md R120). -/
theorem storeNext_of_runs {s : State} {i : Instr} (hi : s.Runs i) (hphase : s.seq.phase = .store) :
    s.storeNext.round = 0#4 ∧ s.storeNext.phase ∈ phasesOf i ∧
      (s.storeNext.phase = .load ∧ s.storeNext.block.toNat < s.nblk.toNat ∨ s.storeNext.phase = .unpad ∨
        s.storeNext.phase = .finish) := by
  obtain ⟨hload, -, -⟩ := round_store_mem_phasesOf (.inr (.inr (hphase ▸ hi.phase)))
  obtain ⟨hlt, hnext⟩ | ⟨-, hop, hnext⟩ | ⟨-, -, hnext⟩ := storeNext_cases s <;> rw [hnext]
  · exact ⟨rfl, hload, .inl ⟨rfl, (toNat_succ_block hlt).trans_lt hlt⟩⟩
  · refine ⟨rfl, ?_, .inr (.inl rfl)⟩
    rw [hi.op] at hop
    rcases hop with ho | ho <;> simp [opcode_injective ho, phasesOf]
  · exact ⟨rfl, finish_mem_phasesOf i, .inr (.inr rfl)⟩

/-- A micro-step that does not end the command keeps the invariant when what it moves stays in range: the phase, the block
counters, RLEN and the pending error. -/
theorem inv_of_microStep {s t : State} {i : Instr} (hs : s.Inv) (hi : s.Runs i) (hstep : MicroStep s t)
    (hne : s.seq.phase ≠ .finish) (hm : Sound t.mbuf) (hphase : t.seq.phase ∈ phasesOf i)
    (hround : t.seq.phase ≠ .keygen → t.seq.phase ≠ .round → t.seq.round = 0#4)
    (hblocks : t.nblk.toNat = blocksWhile i t.seq.phase s.nlen.toNat)
    (hblock : t.seq.phase = .load ∨ t.seq.phase = .round ∨ t.seq.phase = .store → t.seq.block.toNat < t.nblk.toNat)
    (hresult : t.rlen.toNat ≤ Config.nBuf)
    (hpend : t.epend = s.epend ∨ t.seq.phase = .finish ∧ t.epend = .padUnderflow) : t.Inv := by
  have hf := hstep.frame
  have hr := hstep.sameResults hne
  have hbusy : s.busy = true := hs.busyPhase.2 fun hidle => idle_notMem_phasesOf i (hidle ▸ hi.phase)
  obtain ⟨hdone, hvok, herr, hout⟩ := hs.quiet hbusy
  replace hpend := hpend.imp_left fun he => he.trans (hi.pending hne)
  refine inv_of_runs hm (hf.vbuf ▸ vbuf_sound hs) (hr.busy.trans hbusy) hround
    ⟨hr.done.trans hdone, hr.verifyOk.trans hvok, hr.errcode.trans herr, hr.outlen.trans hout⟩ (i := i) ?runs
    (hpend.imp_right And.right)
  exact {
    op := hf.op.trans hi.op
    phase := hphase
    key := fun hk => ⟨hf.key0Set.trans (hi.key hk).1, hf.key1Set.trans (hi.key hk).2⟩
    dirn := hf.dirn.trans hi.dirn
    mode := hf.mode.trans hi.mode
    lengths := by rw [hf.nlen, hf.nvlen]; exact hi.lengths
    blocks := by rw [hf.nlen]; exact hblocks
    block := hblock
    result := hresult
    pending := fun hnf => hpend.resolve_right fun h => hnf h.1 }

/-- The PAD step keeps the invariant, for ENCRYPT, which goes on to its blocks, and for PAD, which ends. -/
theorem padStep_keeps_inv {s : State} {i : Instr} (hs : s.Inv) (hi : s.Runs i) (hphase : s.seq.phase = .pad)
    (hrange : s.paddedLen ≤ Config.nBuf) {n : BitVec 16} {p : Phase}
    (hstep : MicroStep s (State.goto { s.padData with nblk := n } p 0#16 0#4)) (hmem : p ∈ phasesOf i)
    (hp : p = .load ∨ p = .finish) (hblocks : n.toNat = blocksWhile i p s.nlen.toNat) (hpos : p = .load → 0 < n.toNat) :
    State.Inv (State.goto { s.padData with nblk := n } p 0#16 0#4) := by
  have hfits : s.nlen.toNat + (padTail s.nlen.toNat).length ≤ Config.nBuf := by
    rw [length_padTail]
    exact hrange
  refine inv_of_microStep hs hi hstep (by simp [hphase]) ((mbuf_sound hs).writeList hfits) hmem (fun _ _ => rfl) hblocks
    (fun hl => hpos ?_) ((toNat_ofNat_word hrange).trans_le hrange) (.inl rfl)
  rcases hp with rfl | rfl
  · rfl
  · simp at hl

/-- Every micro-step of a running command keeps the invariant. -/
theorem microStep_of_runs_keeps_inv {s t : State} {i : Instr} (h : MicroStep s t) (hs : s.Inv) (hi : s.Runs i) :
    t.Inv := by
  have hm := mbuf_sound hs
  have hv := vbuf_sound hs
  have hstep := h
  cases h
  case idle => exact hs
  case keygenNext hphase hr =>
    exact inv_of_microStep hs hi hstep (by simp [hphase]) hm (hphase ▸ hi.phase) (by simp) (hphase ▸ hi.blocks) (by simp)
      hi.result (.inl rfl)
  case keygenLast hphase hr p hp =>
    obtain ⟨hmem, hcases, hblocks, hpos⟩ := afterKeygen_spec (hi.op ▸ hp) s.nlen.toNat s.nvlen.toNat
    have hnblk : s.nblk.toNat = blocksWhile i .keygen s.nlen.toNat := hphase ▸ hi.blocks
    refine inv_of_microStep hs hi hstep (by simp [hphase]) hm hmem (fun _ _ => rfl) (hnblk.trans hblocks.symm)
      (fun hl => hnblk ▸ hpos ?_ hi.lengths) hi.result (.inl rfl)
    rcases hcases with rfl | rfl | rfl <;> simp_all
  case padBlocks hphase hrange hop =>
    obtain rfl : i = .encrypt := opcode_injective (hi.op.symm.trans hop)
    have hnblk : (BitVec.ofNat 16 (s.paddedLen / 8)).toNat = s.nlen.toNat / 8 + 1 :=
      (toNat_ofNat_blocks hrange).trans (add_padlen_div_eight _)
    exact padStep_keeps_inv hs hi hphase hrange hstep (by decide) (.inl rfl) hnblk (fun _ => by omega)
  case padOnly hphase hrange hop =>
    obtain rfl : i = .pad := (eq_of_pad_mem_phasesOf (hphase ▸ hi.phase)).resolve_right fun he => hop (he ▸ hi.op)
    exact padStep_keeps_inv hs hi hphase hrange hstep (by decide) (.inr rfl) rfl nofun
  case load hphase =>
    obtain ⟨-, hmem, -⟩ := round_store_mem_phasesOf (.inl (hphase ▸ hi.phase))
    exact inv_of_microStep hs hi hstep (by simp [hphase]) hm hmem (by simp)
      (blocks_of_runs hi (by simp [hphase]) (by simp)) (fun _ => hi.block (.inl hphase)) hi.result (.inl rfl)
  case round hphase p r hp =>
    obtain ⟨-, hround, hstore⟩ := round_store_mem_phasesOf (.inr (.inl (hphase ▸ hi.phase)))
    have hblock := hi.block (.inr (.inl hphase))
    rcases hp with rfl | ⟨rfl, rfl⟩
    · exact inv_of_microStep hs hi hstep (by simp [hphase]) hm hround (by simp)
        (blocks_of_runs hi (by simp [hphase]) (by simp)) (fun _ => hblock) hi.result (.inl rfl)
    · exact inv_of_microStep hs hi hstep (by simp [hphase]) hm hstore (fun _ _ => rfl)
        (blocks_of_runs hi (by simp [hphase]) (by simp)) (fun _ => hblock) hi.result (.inl rfl)
  case store hphase hrange =>
    obtain ⟨hround, hmem, hcases⟩ := storeNext_of_runs hi hphase
    refine inv_of_microStep hs hi hstep (by simp [hphase]) (hm.writeBlock hrange _) hmem (fun _ _ => hround)
      (blocks_of_runs hi (by simp [hphase]) ?_) (fun hl => ?_) hi.result (.inl rfl)
    · rcases hcases with ⟨hp, -⟩ | hp | hp <;> simp [hp]
    · rcases hcases with ⟨-, hlt⟩ | hp | hp
      · exact hlt
      · simp [hp] at hl
      · simp [hp] at hl
  case unpadError hphase =>
    exact inv_of_microStep hs hi hstep (by simp [hphase]) hm (finish_mem_phasesOf i) (fun _ _ => rfl)
      (blocks_of_runs hi (by simp [hphase]) (by simp)) (by simp) (Nat.zero_le _) (.inr ⟨rfl, rfl⟩)
  case unpadDone hphase hrange =>
    have hresult : (BitVec.ofNat 32 (s.nlen.toNat - s.zeroTail - 1)).toNat ≤ Config.nBuf := by
      rw [toNat_ofNat_word (by omega)]
      omega
    by_cases hop : s.op = opcode .verify
    · obtain rfl : i = .verify := opcode_injective (hi.op.symm.trans hop)
      rw [if_pos hop] at hstep ⊢
      exact inv_of_microStep hs hi hstep (by simp [hphase]) hm (by simp [phasesOf]) (fun _ _ => rfl)
        (blocks_of_runs hi (by simp [hphase]) (by simp)) (by simp) hresult (.inl rfl)
    · rw [if_neg hop] at hstep ⊢
      exact inv_of_microStep hs hi hstep (by simp [hphase]) hm (finish_mem_phasesOf i) (fun _ _ => rfl)
        (blocks_of_runs hi (by simp [hphase]) (by simp)) (by simp) hresult (.inl rfl)
  case compare hphase =>
    exact inv_of_microStep hs hi hstep (by simp [hphase]) hm (finish_mem_phasesOf i) (fun _ _ => rfl)
      (blocks_of_runs hi (by simp [hphase]) (by simp)) (by simp) hi.result (.inl rfl)
  case finish hphase =>
    refine inv_of_idle hm hv rfl rfl rfl ?_ hs.epend ?_
    · rcases hs.epend with he | he <;> simp [he]
    · rw [finish_outlen]
      split_ifs
      · exact hi.result
      · exact Nat.zero_le _

theorem engineStep_keeps_inv {s t : State} (h : engineStep s = .next t) (hs : s.Inv) : t.Inv := by
  by_cases hbusy : s.busy = true
  · obtain ⟨i, hi⟩ := hs.command hbusy
    exact microStep_of_runs_keeps_inv (microStep_of_engineStep h) hs hi
  · have hphase := phase_idle_of_inv hs (Bool.eq_false_of_not_eq_true hbusy)
    obtain rfl := Host.Outcome.next.inj ((engineStep_idle hphase).symm.trans h)
    exact hs

theorem resetEvent_inv (s : State) : s.resetEvent.Inv :=
  inv_of_idle (sound_afterReset s.mbuf) (sound_afterReset s.vbuf) rfl rfl rfl nofun (.inl rfl) (Nat.zero_le _)

/-- Settles O57: a step is a host turn, a micro-step or a reset, and each keeps the invariant. -/
theorem stepKeepsInvariant : Obligations.StepKeepsInvariant := by
  intro s t hs h
  have hsched (sch : List Turn) : State.Inv { s with sched := sch } := inv_of_sameCommand rfl id hs
  obtain ⟨sch, hhost | hengine | ⟨hreset, -⟩⟩ := step_cases s
  · exact hostStep_keeps_inv (hhost.symm.trans h) (hsched sch)
  · exact engineStep_keeps_inv (hengine.symm.trans h) (hsched sch)
  · obtain rfl := Host.Outcome.next.inj (hreset.symm.trans h)
    exact resetEvent_inv _

end Sys2Proof.Machine.Proofs
end

section
/-!
PROOF. In a state that meets the invariant of runs no step faults (60_exceptions.md R132, R134).
-/

namespace Sys2Proof.Machine.Proofs

open Sys2Proof.Machine.Laws

/-- The blocks of a command lie in MBUF (60_exceptions.md R134). -/
theorem blocks_le_nBuf {i : Instr} {n v : Nat} (h : lengthsOk i n v) (p : Phase) :
    8 * blocksWhile i p n ≤ Config.nBuf := by
  obtain ⟨hmod, hmin, -⟩ := nBuf_bounds
  cases i <;> simp only [blocksWhile, startBlocks, lengthsOk] at h ⊢
  all_goals try split_ifs
  all_goals omega

/-- A command with an UNPAD phase has an input that lies in MBUF. -/
theorem nlen_le_nBuf {i : Instr} {n v : Nat} (h : lengthsOk i n v) (hmem : Phase.unpad ∈ phasesOf i) :
    n ≤ Config.nBuf := by
  cases i <;> simp [phasesOf, lengthsOk] at h hmem <;> omega

/-- KEYGEN is never entered by a command for which R31 gives no phase after it. -/
theorem needsKey_of_keygen_mem_phasesOf {i : Instr} (h : Phase.keygen ∈ phasesOf i) : needsKey i = true := by
  cases i <;> revert h <;> decide

theorem paddedLen_le_nBuf {s : State} {i : Instr} (hi : s.Runs i) (hphase : s.seq.phase = .pad) :
    s.paddedLen ≤ Config.nBuf := by
  have hlen := hi.lengths
  rcases eq_of_pad_mem_phasesOf (hphase ▸ hi.phase) with rfl | rfl
  · exact add_padlen_le_nBuf hlen
  · exact add_padlen_le_nBuf hlen

theorem block_le_nBuf {s : State} {i : Instr} (hi : s.Runs i) (hphase : s.seq.phase = .load ∨ s.seq.phase = .store) :
    8 * s.seq.block.toNat + 8 ≤ Config.nBuf := by
  have hlt := hi.block (hphase.imp_right Or.inr)
  have hle := blocks_le_nBuf hi.lengths s.seq.phase
  rw [← hi.blocks] at hle
  omega

theorem engineStep_never_faults {s : State} (hs : s.Inv) (f : Fault) : engineStep s ≠ .fault f := by
  intro h
  have runs (hne : s.seq.phase ≠ .idle) : ∃ i, s.Runs i := hs.command (hs.busyPhase.2 hne)
  obtain ⟨-, hphase, -, hnone⟩ | ⟨-, ⟨hphase, hout⟩ | ⟨hphase, hout⟩ | ⟨hphase, hout⟩ | ⟨hphase, -, hout⟩⟩ :=
    engineStep_stops.2 f h
  · obtain ⟨i, hi⟩ := runs (by simp [hphase])
    rw [hi.op, phaseAfterKeygen_opcode (needsKey_of_keygen_mem_phasesOf (hphase ▸ hi.phase))] at hnone
    cases hnone
  · obtain ⟨i, hi⟩ := runs (by rcases hphase with hp | hp <;> simp [hp])
    exact absurd (block_le_nBuf hi hphase) (by omega)
  · obtain ⟨i, hi⟩ := runs (by simp [hphase])
    exact absurd (paddedLen_le_nBuf hi hphase) (by omega)
  · obtain ⟨i, hi⟩ := runs (by simp [hphase])
    exact absurd (nlen_le_nBuf hi.lengths (hphase ▸ hi.phase)) (by omega)
  · obtain ⟨i, hi⟩ := runs (by simp [hphase])
    exact absurd hi.result (by omega)

theorem hostStep_never_faults (s : State) (f : Fault) : hostStep s ≠ .fault f := by
  unfold hostStep
  split
  · nofun
  · exact hostAccess_stops.1 f

/-- Settles O59: the running command's operands are in range, so none of the ways a micro-step can fault is open. -/
theorem stepNeverFaults : Obligations.StepNeverFaults := by
  intro s f hs h
  have hsched (sch : List Turn) : State.Inv { s with sched := sch } := inv_of_sameCommand rfl id hs
  obtain ⟨sch, hhost | hengine | ⟨hreset, -⟩⟩ := step_cases s
  · exact hostStep_never_faults _ f (hhost.symm.trans h)
  · exact engineStep_never_faults (hsched sch) f (hengine.symm.trans h)
  · cases hreset.symm.trans h

end Sys2Proof.Machine.Proofs
end

section
/-!
PROOF. The invariant of the subkey table (10_state.md R23; 41_key_schedule.md R93, R94).
-/

namespace Sys2Proof.Machine.Proofs

open Sys2Proof.Machine.Laws

/-! ### An idle engine and the host -/

/-- Of an idle state only what KEYS_VALID says is asked. -/
theorem keysInv_of_idle {t : State} (hphase : t.seq.phase = .idle)
    (hvalid : t.ksv = true → t.ks = keySchedule t.keyreg) : t.KeysInv where
  valid := hvalid
  generating := fun h => absurd h (by simp [hphase])
  generated := fun h => absurd h (by simp [hphase])

theorem HostEffect.keeps_keysInv {s t : State} (h : HostEffect s t) (hs : s.Inv) (hk : s.KeysInv) : t.KeysInv := by
  have idle (hidle : s.busy = false) := phase_idle_of_inv hs hidle
  cases h
  case none => exact hk
  case read v n p => exact ⟨hk.valid, hk.generating, hk.generated⟩
  case ctrl v => exact ⟨hk.valid, hk.generating, hk.generated⟩
  case status v => exact ⟨hk.valid, hk.generating, hk.generated⟩
  case drop hbusy => exact ⟨hk.valid, hk.generating, hk.generated⟩
  case len hidle v => exact keysInv_of_idle (idle hidle) hk.valid
  case vlen hidle v => exact keysInv_of_idle (idle hidle) hk.valid
  case key0 hidle v => exact keysInv_of_idle (idle hidle) nofun
  case key1 hidle v => exact keysInv_of_idle (idle hidle) nofun
  case mbuf hidle a ha v => exact keysInv_of_idle (idle hidle) hk.valid
  case vbuf hidle a ha v => exact keysInv_of_idle (idle hidle) hk.valid
  case rejected hidle e he => exact keysInv_of_idle rfl hk.valid
  case accepted i ha =>
    refine ⟨hk.valid, fun _ hround => absurd hround (Nat.lt_irrefl 0), fun hphase => absurd hphase ?_⟩
    cases i <;> simp [latchOf, firstPhase, opcode]

theorem hostStep_keeps_keysInv {s t : State} (h : hostStep s = .next t) (hs : s.Inv) (hk : s.KeysInv) : t.KeysInv := by
  obtain ⟨p, he⟩ := hostEffect_of_hostStep h
  exact he.keeps_keysInv (inv_of_sameCommand rfl id hs) ⟨hk.valid, hk.generating, hk.generated⟩

/-! ### The KEYGEN phase -/

theorem getElem_keySchedule (K : BitVec 64) (j : Nat) (hj : j < 16) : (keySchedule K)[j] = subkey K j := by
  simp [keySchedule]

theorem toNat_succ_round {r : BitVec 4} (h : r.toNat < 15) : (r + 1#4).toNat = r.toNat + 1 := by
  rw [BitVec.toNat_add]
  exact Nat.mod_eq_of_lt (by simp; omega)

/-- What the rounds before the one that stands next have left: nothing is asked before round 0 (41_key_schedule.md R93). -/
def RoundsDone (s : State) : Prop :=
  0 < s.seq.round.toNat →
    s.ksv = false ∧ (s.c, s.d) = halvesAfter s.keyreg s.seq.round.toNat ∧
      ∀ j : Fin 16, j.val < s.seq.round.toNat → s.ks[j] = subkey s.keyreg j.val

/-- KEYGEN step r rotates the halves that the rounds before it left. -/
theorem rotateHalves_keygenHalves {s : State} (hk : RoundsDone s) :
    rotateHalves s.seq.round.toNat s.keygenHalves = halvesAfter s.keyreg (s.seq.round.toNat + 1) := by
  have hhalves : s.keygenHalves = halvesAfter s.keyreg s.seq.round.toNat := by
    rw [State.keygenHalves]
    split_ifs with h0
    · rw [h0]
      rfl
    · exact (hk (Nat.pos_of_ne_zero (mt round_eq_zero_iff.2 h0))).2.1
  rw [hhalves, halvesAfter]

/-- After KEYGEN step r the subkeys of the rounds 0 to r stand in the table. -/
theorem keygenData_ks_getElem {s : State} (hk : RoundsDone s) (j : Fin 16) (hj : j.val < s.seq.round.toNat + 1) :
    s.keygenData.ks[j] = subkey s.keyreg j.val := by
  rw [keygenData_ks, rotateHalves_keygenHalves hk, Fin.getElem_fin, Vector.getElem_set]
  split_ifs with h
  · rw [subkey, ← h]
    rfl
  · have hlt : j.val < s.seq.round.toNat := lt_of_le_of_ne (Nat.le_of_lt_succ hj) (Ne.symm h)
    exact (hk (Nat.zero_lt_of_lt hlt)).2.2 j hlt

/-- After round 15 the table is the schedule of the key. -/
theorem keygenData_ks_eq_keySchedule {s : State} (hk : RoundsDone s) (hr : s.seq.round.toNat = 15) :
    s.keygenData.ks = keySchedule s.keyreg := by
  refine Vector.ext fun j hj => ?_
  rw [getElem_keySchedule]
  exact keygenData_ks_getElem hk ⟨j, hj⟩ (by omega)

/-- KSV is 0 from the first KEYGEN step on. -/
theorem keygenData_ksv_eq_false {s : State} (hk : RoundsDone s) : s.keygenData.ksv = false := by
  rw [keygenData_ksv]
  split_ifs with h0
  · rfl
  · exact (hk (Nat.pos_of_ne_zero (mt round_eq_zero_iff.2 h0))).1

theorem roundsDone_succ {s : State} (hk : RoundsDone s) (hr : s.seq.round.toNat < 15) :
    RoundsDone (s.keygenData.goto .keygen 0#16 (s.seq.round + 1#4)) := by
  refine fun _ => ⟨keygenData_ksv_eq_false hk, ?_, fun j hj => keygenData_ks_getElem hk j ?_⟩
  · show rotateHalves s.seq.round.toNat s.keygenHalves = halvesAfter s.keyreg (s.seq.round + 1#4).toNat
    rw [toNat_succ_round hr, rotateHalves_keygenHalves hk]
  · exact (toNat_succ_round hr) ▸ hj

theorem keygenNext_keysInv {s : State} (hk : RoundsDone s) (hr : s.seq.round.toNat < 15) :
    (s.keygenData.goto .keygen 0#16 (s.seq.round + 1#4)).KeysInv where
  valid := fun hv => absurd ((keygenData_ksv_eq_false hk).symm.trans hv) nofun
  generating := fun _ => roundsDone_succ hk hr
  generated := by simp

theorem keygenLast_keysInv {s : State} (hk : RoundsDone s) (hr : s.seq.round.toNat = 15) {p : Phase} (hp : p ≠ .keygen) :
    (State.goto { s.keygenData with ksv := true } p 0#16 0#4).KeysInv where
  valid := fun _ => keygenData_ks_eq_keySchedule hk hr
  generating := fun h => absurd h hp
  generated := fun _ => rfl

/-! ### The phases after it -/

/-- A micro-step after the KEYGEN phase keeps the table, its flag and the key, so it keeps the invariant when it enters no
phase that needs a valid table from one that does not. -/
theorem keysInv_of_kept {s t : State} (hk : s.KeysInv) (hksv : t.ksv = s.ksv) (hks : t.ks = s.ks)
    (hkey : t.keyreg = s.keyreg) (hphase : t.seq.phase ≠ .keygen)
    (hneeds : t.seq.phase = .load ∨ t.seq.phase = .round ∨ t.seq.phase = .store ∨
        (t.seq.phase = .pad ∧ t.op = opcode .encrypt) →
      s.seq.phase = .load ∨ s.seq.phase = .round ∨ s.seq.phase = .store ∨
        (s.seq.phase = .pad ∧ s.op = opcode .encrypt)) : t.KeysInv where
  valid := by rw [hksv, hks, hkey]; exact hk.valid
  generating := fun h => absurd h hphase
  generated := fun h => hksv.trans (hk.generated (hneeds h))

theorem phaseAfterKeygen_ne_keygen {op : BitVec 4} {p : Phase} (h : phaseAfterKeygen op = some p) : p ≠ .keygen := by
  unfold phaseAfterKeygen at h
  split_ifs at h <;> cases h <;> nofun

theorem engineStep_keeps_keysInv {s t : State} (h : engineStep s = .next t) (hk : s.KeysInv) : t.KeysInv := by
  cases microStep_of_engineStep h
  case idle => exact hk
  case keygenNext hphase hr => exact keygenNext_keysInv (hk.generating hphase) hr
  case keygenLast hphase hr p hp => exact keygenLast_keysInv (hk.generating hphase) hr (phaseAfterKeygen_ne_keygen hp)
  case padBlocks hphase hrange hop =>
    exact keysInv_of_kept hk rfl rfl rfl nofun fun _ => .inr (.inr (.inr ⟨hphase, hop⟩))
  case padOnly => exact keysInv_of_kept hk rfl rfl rfl nofun (by simp)
  case load hphase => exact keysInv_of_kept hk rfl rfl rfl nofun fun _ => .inl hphase
  case round hphase p r hp =>
    refine keysInv_of_kept hk rfl rfl rfl ?_ fun _ => .inr (.inl hphase)
    rcases hp with rfl | ⟨rfl, -⟩ <;> nofun
  case store hphase hrange =>
    refine keysInv_of_kept hk rfl rfl rfl ?_ fun _ => .inr (.inr (.inl hphase))
    obtain ⟨-, hnext⟩ | ⟨-, -, hnext⟩ | ⟨-, -, hnext⟩ := storeNext_cases s <;> rw [hnext] <;> nofun
  case unpadError => exact keysInv_of_kept hk rfl rfl rfl nofun (by simp)
  case unpadDone =>
    refine keysInv_of_kept hk rfl rfl rfl ?_ ?_ <;> split_ifs <;> simp
  case compare => exact keysInv_of_kept hk rfl rfl rfl nofun (by simp)
  case finish => exact keysInv_of_kept hk rfl rfl rfl nofun (by simp)

theorem resetEvent_keysInv (s : State) : s.resetEvent.KeysInv := keysInv_of_idle rfl nofun

/-- Settles O58: the host invalidates the table when it writes the key, and the KEYGEN phase, which alone writes the table,
makes it valid with its last round. -/
theorem stepKeepsSubkeyTable : Obligations.StepKeepsSubkeyTable := by
  intro s t hs hk h
  have hinv (sch : List Turn) : State.Inv { s with sched := sch } := inv_of_sameCommand rfl id hs
  have hkeys (sch : List Turn) : State.KeysInv { s with sched := sch } := ⟨hk.valid, hk.generating, hk.generated⟩
  obtain ⟨sch, hhost | hengine | ⟨hreset, -⟩⟩ := step_cases s
  · exact hostStep_keeps_keysInv (hhost.symm.trans h) (hinv sch) (hkeys sch)
  · exact engineStep_keeps_keysInv (hengine.symm.trans h) (hkeys sch)
  · obtain rfl := Host.Outcome.next.inj (hreset.symm.trans h)
    exact resetEvent_keysInv _

/-- Settles O56: the reset state is idle, with nothing listed in the buffers and KEYS_VALID = 0. -/
theorem resetMeetsInvariants : Obligations.ResetMeetsInvariants :=
  ⟨inv_of_idle ⟨rfl, rfl⟩ ⟨rfl, rfl⟩ rfl rfl rfl nofun (.inl rfl) (Nat.zero_le _), keysInv_of_idle rfl nofun⟩

end Sys2Proof.Machine.Proofs
end

section
/-!
PROOF. Flags that only some turns clear (10_state.md R24, R25).
-/

namespace Sys2Proof.Machine.Proofs

open Sys2Proof.Machine.Laws

/-! ### Whose turn a step is -/

theorem step_of_sched_cons {s : State} {turn : Turn} {sch : List Turn} (h : s.sched = turn :: sch) :
    step s = turnStep turn { s with sched := sch } := by
  rw [step, scheduledStep, h]

/-- With no turn named, the host has it while no command runs (20_memory.md R60; log 2). -/
theorem step_of_idle {s : State} (hidle : s.busy = false) (hs : s.sched = []) : step s = hostStep s := by
  rw [step, scheduledStep, hs, State.defaultTurn, hidle]
  rfl

/-- A step, with what its schedule says of the agent that moves: `step_cases` with the host's turn told apart. -/
theorem step_turn_cases (s : State) :
    (∃ sch, s.sched = .reset :: sch) ∨ (∃ sch, step s = engineStep { s with sched := sch }) ∨
    (s.sched.head? = some .host ∨ s.sched = [] ∧ s.busy = false) ∧ ∃ sch, step s = hostStep { s with sched := sch } := by
  cases hs : s.sched with
  | nil =>
    have hsame : { s with sched := [] } = s := by rw [← hs]
    by_cases hb : s.busy = true
    · exact .inr (.inl ⟨[], by rw [hsame, step_of_busy hb hs]⟩)
    · have hidle := Bool.eq_false_of_not_eq_true hb
      exact .inr (.inr ⟨.inr ⟨rfl, hidle⟩, [], by rw [hsame, step_of_idle hidle hs]⟩)
  | cons turn sch =>
    have hstep := step_of_sched_cons hs
    cases turn with
    | reset => exact .inl ⟨sch, rfl⟩
    | engine => exact .inr (.inl ⟨sch, hstep⟩)
    | host => exact .inr (.inr ⟨.inl rfl, sch, hstep⟩)

/-! ### KEY0_SET and KEY1_SET -/

/-- A key flag that is set in `s` is set in `t`. -/
def KeepsKeyFlags (s t : State) : Prop :=
  (s.key0Set = true → t.key0Set = true) ∧ (s.key1Set = true → t.key1Set = true)

theorem HostEffect.keepsKeyFlags {s t : State} (h : HostEffect s t) : KeepsKeyFlags s t := by
  cases h
  case key0 => exact ⟨fun _ => rfl, id⟩
  case key1 => exact ⟨id, fun _ => rfl⟩
  all_goals exact ⟨id, id⟩

theorem EngineFrame.keepsKeyFlags {s t : State} (h : EngineFrame s t) : KeepsKeyFlags s t :=
  ⟨h.key0Set.trans, h.key1Set.trans⟩

/-- Settles O49: a host turn can only set the flags, and the engine leaves them. -/
theorem keyFlagsClearedOnlyByReset : Obligations.KeyFlagsClearedOnlyByReset := by
  intro s t h hcleared
  have kept (hk : KeepsKeyFlags s t) : ∃ sch, s.sched = .reset :: sch := by
    obtain ⟨hs, ht⟩ | ⟨hs, ht⟩ := hcleared
    · exact absurd ((hk.1 hs).symm.trans ht) nofun
    · exact absurd ((hk.2 hs).symm.trans ht) nofun
  obtain hreset | ⟨sch, hengine⟩ | ⟨-, sch, hhost⟩ := step_turn_cases s
  · exact hreset
  · exact kept (microStep_of_engineStep (hengine.symm.trans h)).frame.keepsKeyFlags
  · obtain ⟨p, he⟩ := hostEffect_of_hostStep (hhost.symm.trans h)
    exact kept he.keepsKeyFlags

/-! ### WDROP -/

theorem exec_keeps_wdrop {i : Instr} {s t : State} (h : exec i s = .next t) (hs : s.wdrop = true) : t.wdrop = true := by
  obtain ⟨-, rfl⟩ | ⟨-, rfl⟩ | ⟨-, -, e, -, rfl⟩ := exec_cases h
  · rfl
  · exact hs
  · exact hs

theorem cmdWrite_keeps_wdrop {v : Word} {s t : State} (h : cmdWrite v s = .next t) (hs : s.wdrop = true) :
    t.wdrop = true := by
  obtain ⟨i, -, hi⟩ | ⟨-, rfl⟩ := cmdWrite_cases h
  · exact exec_keeps_wdrop hi hs
  · obtain ⟨-, he⟩ | ⟨-, he⟩ := submitIllegal_cases s <;> rw [he]
    · rfl
    · exact hs

theorem whenIdle_wdrop {s t : State} (hs : s.wdrop = true) (ht : t.wdrop = s.wdrop) : (s.whenIdle t).wdrop = true := by
  obtain ⟨-, he⟩ | ⟨-, he⟩ := whenIdle_cases s t <;> rw [he]
  · rfl
  · exact ht.trans hs

/-- A host write of any other place than STATUS keeps WDROP: it is dropped, which sets it, or does not touch it. -/
theorem writePlace_keeps_wdrop {p : Place} (hp : p ≠ .status) {v : Word} {s t : State} (h : writePlace p v s = .next t)
    (hs : s.wdrop = true) : t.wdrop = true := by
  cases p
  case status => exact absurd rfl hp
  case cmd => exact cmdWrite_keeps_wdrop h hs
  case len | vlen | key0 | key1 | mbuf | vbuf => exact Host.Outcome.next.inj h ▸ whenIdle_wdrop hs rfl
  all_goals exact Host.Outcome.next.inj h ▸ hs

/-- STATUS stands at one offset (10_state.md R14). -/
theorem eq_of_placeOf_eq_status {off : Nat} (h : placeOf off = .status) : off = 0x00C := by
  unfold placeOf at h
  split_ifs at h
  unfold registerPlace at h
  split at h
  case h_4 => rfl
  all_goals cases h

/-- A host turn that clears WDROP is a write of 1 to bit 5 of STATUS. -/
theorem hostStep_clears_wdrop {s t : State} (h : hostStep s = .next t) (hs : s.wdrop = true) (ht : t.wdrop = false) :
    ∃ v rest, s.prog = .write .word 0x00C v :: rest ∧ v.getLsbD 5 = true := by
  unfold hostStep at h
  split at h
  case h_1 =>
    cases h
    exact absurd (hs.symm.trans ht) nofun
  case h_2 op rest hprog =>
    obtain ⟨off, v, rfl, -, hwrite⟩ | ⟨v, n, p, rfl⟩ := hostAccess_cases h
    case inr => exact absurd (hs.symm.trans ht) nofun
    have hplace : placeOf off = .status := by
      by_contra hp
      exact absurd ((writePlace_keeps_wdrop hp hwrite hs).symm.trans ht) nofun
    obtain rfl := eq_of_placeOf_eq_status hplace
    refine ⟨v, rest, hprog, ?_⟩
    obtain rfl := Host.Outcome.next.inj hwrite
    simpa [hs] using ht

/-- Settles O50: the engine leaves WDROP, and of the host's turns only a write of STATUS clears it. -/
theorem wdropClearedOnlyByHost : Obligations.WdropClearedOnlyByHost := by
  intro s t h hs ht
  obtain hreset | ⟨sch, hengine⟩ | ⟨hturn, sch, hhost⟩ := step_turn_cases s
  · exact .inl hreset
  · have hkept : t.wdrop = s.wdrop := (microStep_of_engineStep (hengine.symm.trans h)).frame.wdrop
    exact absurd (hs.symm.trans (hkept.symm.trans ht)) nofun
  · exact .inr ⟨hturn, hostStep_clears_wdrop (s := { s with sched := sch }) (hhost.symm.trans h) hs ht⟩

end Sys2Proof.Machine.Proofs
end

section
/-!
PROOF. The host cannot disturb a running command (20_memory.md R60, R63; 70_reset_and_hazards.md R155, R159).
-/

namespace Sys2Proof.Machine.Proofs

open Sys2Proof.Machine.Laws

/-! ### A host turn while BUSY = 1 -/

theorem HostEffect.sameCommand {s t : State} (h : HostEffect s t) (hb : s.busy = true) : s.SameCommand t := by
  cases h
  case none | read | ctrl | status | drop => exact rfl
  case accepted ha => exact absurd (hb.symm.trans ha.1) nofun
  all_goals exact absurd (hb.symm.trans ‹s.busy = false›) nofun

theorem hostStep_sameCommand {s t : State} (h : hostStep s = .next t) (hb : s.busy = true) : s.SameCommand t := by
  obtain ⟨p, he⟩ := hostEffect_of_hostStep h
  exact he.sameCommand (s := { s with prog := p }) hb

/-! ### A micro-step from two states of the same command -/

/-- The command of `s` with what `SameCommand` leaves free taken from `h`. -/
def withHost (s h : State) : State :=
  { s with
    ie := h.ie, done := h.done, wdrop := h.wdrop
    draws := h.draws, prog := h.prog, sched := h.sched, replies := h.replies }

theorem sameCommand_withHost (s h : State) : s.SameCommand (withHost s h) := rfl

theorem sameCommand_refl (s : State) : s.SameCommand s := rfl

theorem SameCommand.eq_withHost {s t : State} (h : s.SameCommand t) : t = withHost s t := h

theorem SameCommand.trans {s t u : State} (hst : s.SameCommand t) (htu : t.SameCommand u) : s.SameCommand u := by
  rw [SameCommand.eq_withHost htu, SameCommand.eq_withHost hst]
  exact sameCommand_withHost s u

/-- What `f` makes of the next state. -/
def onNext (f : State → State) : Result → Result
  | .next s => .next (f s)
  | .fault r => .fault r
  | .refused r => .refused r

/-- No micro-step but FINISH, which sets DONE, reads or writes what the host may change while it runs. -/
theorem engineStep_withHost {s : State} (hne : s.seq.phase ≠ .finish) (h : State) :
    engineStep (withHost s h) = onNext (withHost · h) (engineStep s) := by
  cases hphase : s.seq.phase
  case finish => exact absurd hphase hne
  case idle => rw [engineStep_idle hphase, engineStep_idle (s := withHost s h) hphase, onNext]
  case keygen =>
    have hop : (withHost s h).op = s.op := rfl
    rw [engineStep_keygen hphase, engineStep_keygen (s := withHost s h) hphase]
    by_cases hr : s.seq.round.toNat < 15
    · rw [keygenStep_next hr, keygenStep_next (s := withHost s h) hr]
      rfl
    · rw [keygenStep, keygenStep, if_neg hr, if_neg (c := (withHost s h).seq.round.toNat < 15) hr, hop]
      cases phaseAfterKeygen s.op <;> rfl
  case pad =>
    rw [engineStep_pad hphase, engineStep_pad (s := withHost s h) hphase, padStep, padStep, apply_ite (onNext _),
      apply_ite (onNext _)]
    rfl
  case load =>
    rw [engineStep_load hphase, engineStep_load (s := withHost s h) hphase, loadStep, loadStep, apply_ite (onNext _)]
    rfl
  case round =>
    rw [engineStep_round hphase, engineStep_round (s := withHost s h) hphase, roundStep_eq, roundStep_eq]
    rfl
  case store =>
    rw [engineStep_store hphase, engineStep_store (s := withHost s h) hphase, storeStep, storeStep, apply_ite (onNext _)]
    rfl
  case unpad =>
    rw [engineStep_unpad hphase, engineStep_unpad (s := withHost s h) hphase, unpadStep, unpadStep, apply_ite (onNext _),
      apply_ite (onNext _)]
    rfl
  case compare =>
    rw [engineStep_compare hphase, engineStep_compare (s := withHost s h) hphase, compareStep, compareStep,
      apply_ite (onNext _)]
    rfl

/-- The engine's next micro-step keeps two states of the same command together. -/
theorem engineStep_sameCommand {s t u : State} (hst : s.SameCommand t) (hu : engineStep s = .next u) :
    ∃ v, engineStep t = .next v ∧ u.SameCommand v := by
  rw [SameCommand.eq_withHost hst]
  by_cases hphase : s.seq.phase = .finish
  · obtain rfl := Host.Outcome.next.inj ((engineStep_finish hphase).symm.trans hu)
    exact ⟨_, engineStep_finish (s := withHost s t) hphase, rfl⟩
  · exact ⟨withHost u t, by rw [engineStep_withHost hphase, hu, onNext], sameCommand_withHost u t⟩

/-- Settles O52: a host turn leaves the same command, and micro-steps keep states of the same command together. -/
theorem hostTurnKeepsRunningCommand : Obligations.HostTurnKeepsRunningCommand := fun _ _ hb h =>
  ⟨hostStep_sameCommand h hb, fun _ => engineStep_sameCommand (hostStep_sameCommand h hb)⟩

/-! ### Interleavings -/

/-- The engine never sets BUSY: it is 1 before every micro-step that leaves it 1. -/
theorem busy_of_engineStep {s t : State} (h : engineStep s = .next t) (hb : t.busy = true) : s.busy = true := by
  have hstep := microStep_of_engineStep h
  by_cases hphase : s.seq.phase = .finish
  · obtain rfl := Host.Outcome.next.inj ((engineStep_finish hphase).symm.trans h)
    exact absurd hb nofun
  · exact (hstep.sameResults hphase).busy.symm.trans hb

theorem busy_of_engineRun {k : Nat} {s t : State} (h : engineRun k s = .next t) (hb : t.busy = true) :
    s.busy = true := by
  induction k generalizing s with
  | zero => exact Host.Outcome.next.inj h ▸ hb
  | succ k ih =>
    obtain ⟨u, hstep, hrun⟩ := engineRun_succ.1 h
    exact busy_of_engineStep hstep (ih hrun)

/-- From two states of the same command, turns without a reset and the micro-steps among them alone lead to two states of the
same command, as long as it runs. -/
theorem interleave_sameCommand {turns : List Turn} {s s' t u : State} (hreset : Turn.reset ∉ turns)
    (hs : s.SameCommand s') (ht : interleave turns s' = .next t) (hu : engineRun (turns.count .engine) s = .next u)
    (hb : u.busy = true) : u.SameCommand t := by
  induction turns generalizing s s' with
  | nil =>
    obtain rfl := Host.Outcome.next.inj hu
    obtain rfl := Host.Outcome.next.inj ht
    exact hs
  | cons turn turns ih =>
    have hreset' : Turn.reset ∉ turns := fun h => hreset (List.mem_cons_of_mem _ h)
    have hbusy : s.busy = true := busy_of_engineRun hu hb
    have hbusy' : s'.busy = true := (congrArg State.busy (SameCommand.eq_withHost hs)).trans hbusy
    rw [interleave] at ht
    cases turn with
    | reset => exact absurd List.mem_cons_self hreset
    | engine =>
      rw [List.count_cons_self] at hu
      obtain ⟨s₁, hstep, hrun⟩ := engineRun_succ.1 hu
      obtain ⟨s₁', hstep', hs₁⟩ := engineStep_sameCommand hs hstep
      rw [turnStep, hstep'] at ht
      exact ih hreset' hs₁ ht hrun
    | host =>
      rw [List.count_cons_of_ne (by decide)] at hu
      cases hstep : turnStep .host s' with
      | next s₁' =>
        rw [hstep] at ht
        exact ih hreset' (SameCommand.trans hs (hostStep_sameCommand hstep hbusy')) ht hu
      | fault f => rw [hstep] at ht; cases ht
      | refused q => rw [hstep] at ht; cases ht

/-- Settles O53: host turns leave the same command, and micro-steps keep the two runs together. -/
theorem hostCannotDisturbRunningCommand : Obligations.HostCannotDisturbRunningCommand :=
  fun _ _ _ _ hreset _ ht hu hb => interleave_sameCommand hreset (sameCommand_refl _) ht hu hb

end Sys2Proof.Machine.Proofs
end

section
/-!
PROOF. Command words (30_encoding.md R65 to R70).
-/

namespace Sys2Proof.Machine.Proofs

/-- The opcode field of a command word is its command's opcode, below a zero field (30_encoding.md R65). -/
theorem encode_fields (i : Instr) : (encode i).extractLsb' 4 28 = 0#28 ∧ (encode i).extractLsb' 0 4 = opcode i := by
  cases i <;> decide

theorem decode_encode (i : Instr) : decode (encode i) = .ok i := by
  obtain ⟨hzero, hop⟩ := encode_fields i
  exact decode_eq_ok_iff.2 ⟨hzero, by rw [hop, decodeOp_opcode]⟩

theorem eq_encode_of_decode {w : Word} {i : Instr} (h : decode w = .ok i) : w = encode i :=
  calc w = w.extractLsb' 4 28 ++ w.extractLsb' 0 4 := (BitVec.extractLsb'_append_extractLsb' (w := 28) (len := 4)).symm
    _ = 0#28 ++ opcode i := by rw [(decode_eq_ok_iff.1 h).1, opcode_of_decode h]

/-- Settles O2: a command word is the zero field and the opcode, which the opcode map takes back. -/
theorem decodeAndEncodeAgree : Obligations.DecodeAndEncodeAgree :=
  ⟨fun i _ => decode_encode i, fun _ _ => eq_encode_of_decode⟩

/-- Settles O3: the words named are decoded one by one. -/
theorem opcodeMapWords : Obligations.OpcodeMapWords := by
  unfold Obligations.OpcodeMapWords
  decide

end Sys2Proof.Machine.Proofs
end

section
/-!
PROOF. The acceptance step of the commands (60_exceptions.md R133 to R135, R137).
-/

namespace Sys2Proof.Machine.Proofs

open Sys2Proof.Machine.Laws

/-- Settles O7: what an accepted command latches is the record R133 lists. -/
theorem acceptedCommandStarts : Obligations.AcceptedCommandStarts := fun _ _ => exec_of_accepts

/-- Settles O8: a rejection is by the first check that fails, and checks report three codes only. -/
theorem rejectedCommandChangesOnlyStatus : Obligations.RejectedCommandChangesOnlyStatus := by
  intro i s hidle ha
  obtain ⟨e, hmem, he⟩ := exec_of_not_accepts hidle ha
  exact ⟨e, code_of_mem_checksOf hmem, he⟩

/-- An idle engine rejects with the code of the first check that fails (60_exceptions.md R135). -/
theorem exec_of_firstError {i : Instr} {s : State} {e : ErrCode} (hidle : s.busy = false)
    (he : firstError (checksOf s i) = some e) : exec i s = .next (s.rejectedWith e) := by
  simp [exec_eq_submit, State.submit, hidle, he, clearResults_reject]

/-- The key check comes first in every command that needs the key. -/
theorem checksOf_eq_keyCheck_cons (s : State) {i : Instr} (h : needsKey i = true) :
    ∃ rest, checksOf s i = s.keyCheck :: rest := by
  cases i <;> cases h <;> exact ⟨_, rfl⟩

theorem firstError_cons_fails {c : Check} (h : c.1 = true) (cs : List Check) : firstError (c :: cs) = some c.2 := by
  rw [firstError, if_pos h]

theorem firstError_cons_passes {c : Check} (h : c.1 = false) (cs : List Check) : firstError (c :: cs) = firstError cs := by
  rw [firstError, if_neg (by simp [h])]

/-- A check that passes or fails as its condition says (60_exceptions.md R134). -/
theorem keyCheck_fails {s : State} (h : s.key0Set = false ∨ s.key1Set = false) : s.keyCheck.1 = true := by
  rcases h with h | h <;> simp [State.keyCheck, h]

theorem lenBelowCheck_fails {s : State} (h : Config.nBuf - 1 < s.len.toNat) : s.lenBelowCheck.1 = true :=
  Bool.eq_true_of_not_eq_false fun hpass => absurd ((lenBelowCheck_passes_iff s).1 hpass) (by omega)

theorem lenCheck_fails {s : State} (h : Config.nBuf < s.len.toNat) : s.lenCheck.1 = true := decide_eq_true h

theorem vlenCheck_fails {s : State} (h : Config.nBuf < s.vlen.toNat) : s.vlenCheck.1 = true := decide_eq_true h

theorem blocksCheck_fails {s : State} (h : s.len.toNat = 0 ∨ s.len.toNat % 8 ≠ 0) : s.blocksCheck.1 = true :=
  Bool.eq_true_of_not_eq_false fun hpass => absurd ((blocksCheck_passes_iff s).1 hpass) (by omega)

/-- Settles O9: in each case the checks before the failing one pass, and its code is reported. -/
theorem acceptanceChecksInOrder : Obligations.AcceptanceChecksInOrder := by
  intro s hidle
  have rejects {i : Instr} {e : ErrCode} := exec_of_firstError (i := i) (e := e) hidle
  refine ⟨fun i hi hkey => ?key, fun hlen => ?pad, fun hlen => ?unpad, fun h0 h1 => ⟨fun hlen => ?encrypt,
    fun hlen => ?blocks, fun hpos hmod hlen => ?len, fun hpos hmod hlen hvlen => ?vlen⟩⟩
  case key =>
    obtain ⟨rest, hrest⟩ := checksOf_eq_keyCheck_cons s hi
    exact rejects (hrest ▸ firstError_cons_fails (keyCheck_fails hkey) rest)
  case pad => exact rejects (firstError_cons_fails (lenBelowCheck_fails hlen) _)
  case unpad => exact rejects (firstError_cons_fails (lenCheck_fails hlen) _)
  all_goals
    have keyed (cs : List Check) := firstError_cons_passes ((keyCheck_passes_iff s).2 ⟨h0, h1⟩) cs
  case encrypt => exact rejects ((keyed _).trans (firstError_cons_fails (lenBelowCheck_fails hlen) _))
  case blocks =>
    exact ⟨rejects ((keyed _).trans (firstError_cons_fails (blocksCheck_fails hlen) _)),
      rejects ((keyed _).trans (firstError_cons_fails (blocksCheck_fails hlen) _))⟩
  all_goals
    have blocked (cs : List Check) := (keyed _).trans (firstError_cons_passes ((blocksCheck_passes_iff s).2 ⟨hpos, hmod⟩) cs)
  case len =>
    exact ⟨rejects ((blocked _).trans (firstError_cons_fails (lenCheck_fails hlen) _)),
      rejects ((blocked _).trans (firstError_cons_fails (lenCheck_fails hlen) _))⟩
  case vlen =>
    have fits (cs : List Check) := firstError_cons_passes ((lenCheck_passes_iff s).2 hlen) cs
    exact rejects ((blocked _).trans ((fits _).trans (firstError_cons_fails (vlenCheck_fails hvlen) _)))

/-- Settles O10: a dropped write sets WDROP, whatever its word. -/
theorem commandWhileBusyIsDropped : Obligations.CommandWhileBusyIsDropped :=
  ⟨fun i _ hb => exec_busy hb i, fun w _ hb => cmdWrite_busy hb w⟩

end Sys2Proof.Machine.Proofs
end

section
/-!
PROOF. Whose turn a step is, and what the host's turn does (20_memory.md R60, R63; 30_encoding.md R71, R72).
-/

namespace Sys2Proof.Machine.Proofs

open Sys2Proof.Machine.Laws

/-- Settles O5: the schedule's turn, or the default one. -/
theorem stepRunsTheEngine : Obligations.StepRunsTheEngine := fun _ =>
  ⟨fun _ => step_of_sched_cons, fun _ => step_of_sched_cons, fun _ => step_of_sched_cons, fun hs hb => step_of_busy hb hs,
    fun hs hidle => step_of_idle hidle hs⟩

theorem hostStep_nil {s : State} (h : s.prog = []) : hostStep s = .next s := by rw [hostStep, h]

theorem hostStep_cons {s : State} {op : HostOp} {rest : List HostOp} (h : s.prog = op :: rest) :
    hostStep s = hostAccess op { s with prog := rest } := by rw [hostStep, h]

theorem accessCheck_word {off : Nat} (h : off % 4 = 0) : accessCheck .word off = none :=
  accessCheck_none.2 ⟨rfl, by simp [alignedOffset, h]⟩

theorem hostAccess_write_word {off : Nat} (h : off % 4 = 0) (v : Word) (s : State) :
    hostAccess (.write .word off v) s = writePlace (placeOf off) v s := by
  rw [hostAccess, accessCheck_word h]

theorem hostAccess_read_word {off : Nat} (h : off % 4 = 0) (s : State) :
    hostAccess (.read .word off) s = .next (readPlace (placeOf off) s) := by
  rw [hostAccess, accessCheck_word h]

theorem hostAccess_poll_word {off : Nat} (h : off % 4 = 0) (mask val : Word) (s : State) :
    hostAccess (.poll off mask val) s = .next (pollAgain off mask val (readPlace (placeOf off) s)) := by
  rw [hostAccess, accessCheck_word h]

/-- Settles O6: the transaction at the head is carried out on the place its offset names. -/
theorem hostTurnRunsNextTransaction : Obligations.HostTurnRunsNextTransaction :=
  ⟨fun _ _ _ => hostStep_cons, fun _ => hostStep_nil, fun _ _ => rfl, fun s _ v hoff =>
    ⟨hostAccess_write_word hoff v s, hostAccess_read_word hoff s⟩⟩

theorem cmdWrite_of_decode {w : Word} {i : Instr} (h : decode w = .ok i) (s : State) : cmdWrite w s = exec i s := by
  rw [cmdWrite, h]

/-- A word write to offset 0x008 of a word that decodes runs the command (30_encoding.md R66). -/
theorem hostAccess_command {w : Word} {i : Instr} (h : decode w = .ok i) (s : State) :
    hostAccess (.write .word 0x008 w) s = exec i s :=
  (hostAccess_write_word rfl w s).trans (cmdWrite_of_decode h s)

/-- On the host's turn, with such a write in front, the step runs the command. -/
theorem step_command {s : State} {w : Word} {i : Instr} {rest : List HostOp} {sch : List Turn}
    (hprog : s.prog = .write .word 0x008 w :: rest) (hs : s.sched = .host :: sch) (hw : decode w = .ok i) :
    step s = exec i { s with prog := rest, sched := sch } := by
  rw [step_of_sched_cons hs, turnStep, hostStep_cons (s := { s with sched := sch }) hprog, hostAccess_command hw]

/-- Settles O4: the step is the host's turn, whose transaction writes the word to CMD. -/
theorem stepRunsDecodedCommand : Obligations.StepRunsDecodedCommand := by
  refine ⟨fun s w i rest hprog hw => ⟨fun sch hs => step_command hprog hs hw, fun hs hidle => ?default⟩,
    fun s nbits w v i hv hw => ?placed⟩
  case default => rw [step_of_idle hidle hs, hostStep_cons hprog, hostAccess_command hw]
  case placed =>
    have hprog : (s.withFetchWord nbits w).prog = .write .word 0x008 v :: s.prog := by
      rw [State.withFetchWord, hv, hostNext_prog, Option.getD_some]
    exact step_command hprog rfl hw

/-- Settles O47: the poll is the read, after which it leaves the list or stands in it again. -/
theorem pollReadsUntilMatch : Obligations.PollReadsUntilMatch := by
  intro s t off mask val rest hprog h
  rw [hostStep_cons (op := .read .word off) (rest := rest) rfl] at h
  have hoff : off % 4 = 0 := by
    by_contra hoff
    simp [hostAccess, accessCheck, hoff] at h
  have ht := Host.Outcome.next.inj ((hostAccess_read_word hoff _).symm.trans h)
  obtain ⟨v, n, hread⟩ := readPlace_eq (placeOf off) { s with prog := rest }
  have hpoll : hostStep s = .next (pollAgain off mask val t) := by
    rw [hostStep_cons hprog, hostAccess_poll_word hoff, ← ht]
  obtain rfl := hread.symm.trans ht
  refine ⟨v, rfl, rfl, hpoll.trans (congrArg _ ?_)⟩
  rw [pollAgain]
  split_ifs with h1 h2 h2
  · rfl
  · exact absurd h1 h2
  · exact absurd h2 h1
  · rfl

end Sys2Proof.Machine.Proofs
end

section
/-!
PROOF. The register map, and what reads and idle writes of its places do (10_state.md R14 to R33, R42).
-/

namespace Sys2Proof.Machine.Proofs

open Sys2Proof.Machine.Laws

/-! ### The register map -/

theorem placeOf_registers {off : Nat} (h : off < 0x100) : placeOf off = registerPlace off := by
  rw [placeOf, if_pos h]

/-- Below 0x100 the registers end at PROGRESS (10_state.md R14). -/
theorem registerPlace_reserved {off : Nat} (h : 0x02C ≤ off) : registerPlace off = .reserved := by
  unfold registerPlace
  split
  case h_12 => rfl
  all_goals omega

theorem placeOf_subkey (r : BitVec 4) {j : Nat} (hj : j < 8) :
    placeOf (0x100 + 8 * r.toNat + j) = .subkey r (decide (j < 4)) := by
  have hr := r.isLt
  have hindex : (0x100 + 8 * r.toNat + j - 0x100) / 8 = r.toNat := by omega
  have hlane : (0x100 + 8 * r.toNat + j - 0x100) % 8 = j := by omega
  rw [placeOf, if_neg (by omega), if_pos (by omega), hindex, hlane, BitVec.ofNat_toNat, BitVec.setWidth_eq]

/-- The window offsets at or above N_BUF are reserved (20_memory.md R49). -/
theorem placeOf_windows_reserved {a : Nat} (hlo : Config.nBuf ≤ a) (hhi : a < 0x1000) :
    placeOf (0x1000 + a) = .reserved ∧ placeOf (0x2000 + a) = .reserved := by
  constructor
  · rw [placeOf, if_neg (by omega), if_neg (by omega), if_neg (by omega), if_pos (by omega), if_neg (by omega)]
  · rw [placeOf, if_neg (by omega), if_neg (by omega), if_neg (by omega), if_neg (by omega), if_pos (by omega),
      if_neg (by omega)]

/-- Settles O40: each offset falls into one range of the map. -/
theorem registerMap : Obligations.RegisterMap := by
  refine ⟨rfl, rfl, rfl, rfl, rfl, rfl, rfl, rfl, rfl, rfl, rfl, fun off hlo hhi => ?registers, fun r => ?subkeys,
    fun off hlo hhi => ?gap, fun a ha => ?windows, fun off hlo hhi => ?tail, fun off hlo => ?outside⟩
  case registers => rw [placeOf_registers hhi, registerPlace_reserved hlo]
  case subkeys =>
    refine ⟨placeOf_subkey r (j := 0) (by decide), ?_⟩
    rw [show 0x104 + 8 * r.toNat = 0x100 + 8 * r.toNat + 4 by omega]
    exact placeOf_subkey r (j := 4) (by decide)
  case gap => rw [placeOf, if_neg (by omega), if_neg (by omega), if_pos hhi]
  case windows =>
    by_cases hn : a < Config.nBuf
    · rw [if_pos hn, if_pos hn]
      exact ⟨placeOf_mbufWindow hn, placeOf_vbufWindow hn⟩
    · rw [if_neg hn, if_neg hn]
      exact placeOf_windows_reserved (by omega) ha
  case tail =>
    rw [placeOf, if_neg (by omega), if_neg (by omega), if_neg (by omega), if_neg (by omega), if_neg (by omega), if_pos hhi]
  case outside =>
    rw [placeOf, if_neg (by omega), if_neg (by omega), if_neg (by omega), if_neg (by omega), if_neg (by omega),
      if_neg (by omega)]

/-! ### Writes while BUSY = 0 -/

/-- Settles O41: an idle write is performed as its place says; CMD hands the word to the decoder. -/
theorem hostWritesWhileIdle : Obligations.HostWritesWhileIdle := by
  intro s v hidle
  have perform (t : State) : Host.Outcome.next (s.whenIdle t) = (.next t : Result) :=
    congrArg Host.Outcome.next (whenIdle_idle hidle t)
  refine ⟨fun i hi => cmdWrite_of_decode hi s, fun hv => ?_, rfl, congrArg Host.Outcome.next (writeStatus_eq_ite s v),
    perform _, perform _, perform _, perform _, rfl, rfl, rfl, rfl, rfl, fun _ _ => rfl⟩
  exact (cmdWrite_not_decoded hv s).trans (congrArg Host.Outcome.next (submitIllegal_idle hidle))

/-! ### Reads -/

theorem ctrlWord_eq_ite (s : State) : s.ctrlWord = if s.ie then 1#32 else 0#32 := by
  unfold State.ctrlWord
  cases s.ie <;> rfl

theorem errcodeWord_eq_zeroExtend (s : State) : s.errcodeWord = s.errcode.bits.zeroExtend 32 := by
  unfold State.errcodeWord
  cases s.errcode <;> rfl

theorem subkeyWord_eq_ite (s : State) (r : BitVec 4) (first : Bool) :
    s.subkeyWord r first = if s.ksv = false then 0#32 else if first then substr s.ks[r.toFin] 0 32
      else substr s.ks[r.toFin] 32 16 ++ 0#16 := by
  unfold State.subkeyWord
  cases s.ksv <;> rfl

theorem replyIdle_busy {s : State} (h : s.busy = true) (v : Word) :
    s.replyIdle v = { s with replies := Config.busyRead s.draws :: s.replies, draws := s.draws + 1 } := by
  rw [State.replyIdle, if_pos h]
  rfl

/-- Settles O43: each place replies with its word; MBUF and SUBKEY reply with a free value while BUSY = 1. -/
theorem hostReads : Obligations.HostReads := by
  intro s
  refine ⟨rfl, ?ctrl, rfl, ?errcode, rfl, rfl, rfl, ?zero, rfl, rfl, fun _ => rfl, fun hidle => ⟨fun a => ?mbuf,
    fun r first => ?subkey⟩, fun hbusy => ?busy⟩
  case ctrl =>
    rw [← ctrlWord_eq_ite]
    rfl
  case errcode =>
    rw [← errcodeWord_eq_zeroExtend]
    rfl
  case zero => rintro p (rfl | rfl | rfl | rfl) <;> rfl
  case mbuf => exact replyIdle_idle hidle _
  case subkey =>
    rw [← subkeyWord_eq_ite]
    exact replyIdle_idle hidle _
  case busy => rintro p (⟨a, rfl⟩ | ⟨r, first, rfl⟩) <;> exact replyIdle_busy hbusy _

/-! ### Reset -/

theorem reset_words : State.reset.ctrlWord = 0#32 ∧ State.reset.statusWord = 0#32 ∧ State.reset.errcodeWord = 0#32 ∧
    State.reset.progressWord = 0#32 := by
  and_intros <;> rfl

/-- Settles O55: a reset event leaves the engine in its reset state, with nothing listed in the buffers. -/
theorem resetValues : Obligations.ResetValues := by
  obtain ⟨hctrl, hstatus, herr, hprogress⟩ := reset_words
  rintro t (rfl | ⟨s, sch, hs, h⟩)
  case' inr => obtain rfl := Host.Outcome.next.inj ((step_of_sched_cons hs).symm.trans h)
  all_goals
    exact ⟨rfl, rfl, rfl, rfl, rfl, rfl, rfl, rfl, rfl, rfl, rfl, rfl, rfl, rfl, rfl, hctrl, hstatus, herr, hprogress, rfl,
      rfl⟩

end Sys2Proof.Machine.Proofs
end

section
/-!
PROOF. The canonical form of a buffer is unique (log 6; 20_memory.md R48, R51).
-/

namespace Sys2Proof.Machine.Proofs

open Sys2Proof.Machine.Laws

/-- In canonical form an address is listed exactly when it reads as another byte than an unlisted one would. -/
theorem lookupCell_of_wf {m : Memory} (h : m.wf = true) (a : Nat) :
    lookupCell m.cells a = if m.read a = m.unlisted a then none else some (m.read a) := by
  rw [Memory.read]
  cases hl : lookupCell m.cells a with
  | none => rw [Option.getD_none, if_pos rfl]
  | some b =>
    have hne : b ≠ m.unlisted a := (wf_iff.1 h).2 _ (mem_of_lookupCell hl)
    rw [Option.getD_some, if_neg hne]

theorem mem_cells_iff {m : Memory} (h : m.wf = true) (p : Host.Cell) :
    p ∈ m.cells ↔ lookupCell m.cells p.1 = some p.2 :=
  ⟨lookupCell_of_mem (wf_iff.1 h).1, mem_of_lookupCell⟩

/-- Lists of cells at strictly rising addresses are equal when they have the same cells. -/
theorem cells_eq_of_mem_iff {cs cs' : List Host.Cell} (hs : cs.Pairwise fun p q => p.1 < q.1)
    (hs' : cs'.Pairwise fun p q => p.1 < q.1) (h : ∀ p, p ∈ cs ↔ p ∈ cs') : cs = cs' := by
  have hirrefl : Std.Irrefl fun p q : Host.Cell => p.1 < q.1 := ⟨fun p => Nat.lt_irrefl p.1⟩
  have hantisymm : Std.Antisymm fun p q : Host.Cell => p.1 < q.1 := ⟨fun p q hpq hqp => absurd hpq (Nat.lt_asymm hqp)⟩
  exact hs.eq_of_mem_iff hs' h

/-- Settles O60: what reads the same lists the same cells, and rising addresses fix their order. -/
theorem canonicalFormIsUnique : Obligations.CanonicalFormIsUnique := by
  rintro ⟨buf, epoch, cells⟩ ⟨_, _, cells'⟩ h h' rfl rfl hread
  obtain rfl : cells' = cells := by
    refine cells_eq_of_mem_iff (wf_iff.1 h').1 (wf_iff.1 h).1 fun p => ?_
    rw [mem_cells_iff h' p, mem_cells_iff h p, lookupCell_of_wf h', lookupCell_of_wf h, hread]
    rfl
  rfl

end Sys2Proof.Machine.Proofs
end

section
/-!
PROOF. The primitives on byte buffers, bit by bit (40_bitvector.md R75 to R80).
-/

namespace Sys2Proof.Machine.Proofs

open Sys2Proof.Machine.Laws

/-! ### The bits of a buffer -/

theorem getBit_cons (b : Byte) (bs : List Byte) (i : Nat) :
    getBit (b :: bs) i = if i < 8 then some (strBit b i) else getBit bs (i - 8) := by
  split_ifs with h
  · rw [getBit, Nat.div_eq_of_lt h, Nat.mod_eq_of_lt h]
    rfl
  · obtain ⟨k, rfl⟩ := Nat.exists_eq_add_of_le' (Nat.le_of_not_lt h)
    rw [getBit, getBit, Nat.add_div_right k (by decide), Nat.add_mod_right, Nat.add_sub_cancel, List.getElem?_cons_succ]

/-- A bit of a buffer is that entry of its list of bits. -/
theorem getElem?_bufBits (s : List Byte) (i : Nat) : (bufBits s)[i]? = getBit s i := by
  induction s generalizing i with
  | nil => rfl
  | cons b bs ih =>
    have hcons : bufBits (b :: bs) = ((List.range 8).map fun j => strBit b j) ++ bufBits bs := rfl
    rw [hcons, getBit_cons]
    split_ifs with h
    · rw [List.getElem?_append_left (by simpa using h)]
      simp [h]
    · rw [List.getElem?_append_right (by simpa using h), ih]
      simp

@[simp] theorem length_bufBits (s : List Byte) : (bufBits s).length = 8 * s.length := by
  simp [bufBits, Nat.mul_comm]

theorem getBit_eq_some_getD {s : List Byte} {i : Nat} (h : i < 8 * s.length) :
    getBit s i = some ((bufBits s).getD i false) := by
  rw [← getElem?_bufBits, List.getD_eq_getElem?_getD, List.getElem?_eq_getElem (by simpa using h), Option.getD_some]

/-! ### setBit -/

@[simp] theorem strBit_byteSetBit (b : Byte) (j k : Nat) (v : Bool) :
    strBit (byteSetBit b j v) k = (decide (k < 8) && if k = j then v else strBit b k) := strBit_bitsOf _ _ _

/-- setBit changes its own bit and no other (40_bitvector.md R76). -/
theorem getBit_setBit (s : List Byte) (i v j : Nat) :
    getBit (setBit s i v) j = (getBit s j).map fun b => if j = i then v != 0 else b := by
  have hlt : j % 8 < 8 := Nat.mod_lt j (by decide)
  rw [getBit, getBit, setBit, List.getElem?_modify, Option.map_map, Option.map_eq_map, Option.map_map]
  congr 1
  funext b
  by_cases hbyte : i / 8 = j / 8
  · have hbit : j % 8 = i % 8 ↔ j = i := by omega
    simp [hbyte, hlt, hbit]
  · have hne : j ≠ i := fun h => hbyte (h ▸ rfl)
    simp [hbyte, hne]

/-! ### Repacking -/

/-- The packed bytes hold the bits from bit 0 on, and zeros in the rest of the final byte (40_bitvector.md R77). -/
theorem packBytes_spec {fuel : Nat} {bits : List Bool} (h : bits.length ≤ 8 * fuel) :
    (packBytes fuel bits).length = (bits.length + 7) / 8 ∧
      ∀ j, j < 8 * ((bits.length + 7) / 8) → getBit (packBytes fuel bits) j = some (bits.getD j false) := by
  induction fuel generalizing bits with
  | zero =>
    obtain rfl : bits = [] := List.eq_nil_of_length_eq_zero (by omega)
    simp [packBytes]
  | succ fuel ih =>
    cases bits with
    | nil => simp [packBytes]
    | cons b bs =>
      have hbytes : ((b :: bs).length + 7) / 8 = (((b :: bs).drop 8).length + 7) / 8 + 1 := by
        simp only [List.length_drop, List.length_cons]
        omega
      obtain ⟨hlen, hbits⟩ := ih (bits := (b :: bs).drop 8) (by simp only [List.length_drop]; omega)
      rw [packBytes, hbytes]
      refine ⟨by rw [List.length_cons, hlen], fun j hj => ?_⟩
      rw [getBit_cons]
      split_ifs with h8
      · rw [strBit_bitsOf, decide_eq_true h8, Bool.true_and]
      · rw [hbits (j - 8) (by omega), List.getD_eq_getElem?_getD, List.getElem?_drop, Nat.add_sub_cancel' (by omega),
          List.getD_eq_getElem?_getD]

/-- The same with the number of bits as the fuel, which is how the primitives call it. -/
theorem packBytes_bits {n : Nat} {bits : List Bool} (h : bits.length = n) :
    (packBytes n bits).length = (n + 7) / 8 ∧ (∀ j, j < n → getBit (packBytes n bits) j = bits[j]?) ∧
      ∀ j, n ≤ j → j < 8 * (packBytes n bits).length → getBit (packBytes n bits) j = some false := by
  obtain ⟨hlen, hbits⟩ := packBytes_spec (fuel := n) (bits := bits) (by omega)
  rw [h] at hlen hbits
  refine ⟨hlen, fun j hj => ?_, fun j hj hlt => ?_⟩
  · rw [hbits j (by omega), List.getD_eq_getElem?_getD, List.getElem?_eq_getElem (h ▸ hj), Option.getD_some]
  · rw [hbits j (hlen ▸ hlt), List.getD_eq_getElem?_getD, List.getElem?_eq_none (h ▸ hj), Option.getD_none]

/-- Settles O28: setBit maps one bit, and getBits and concatenateBits pack lists of bits of their operands. -/
theorem bufferPrimitivesMoveBits : Obligations.BufferPrimitivesMoveBits := by
  refine ⟨fun s i v hi => ⟨by simp [setBit], ?setSame, fun j hj => ?setOther⟩, fun s start length hrange => ?getBits,
    fun a aLen b bLen ha hb => ?concat⟩
  case setSame => rw [getBit_setBit, getBit_eq_some_getD hi, Option.map_some, if_pos rfl]
  case setOther => simp [getBit_setBit, hj]
  case getBits =>
    obtain ⟨hlen, hbits, hrest⟩ := packBytes_bits (bits := ((bufBits s).drop start).take length) (n := length)
      (by rw [List.length_take, List.length_drop, length_bufBits]; omega)
    refine ⟨_, if_pos hrange, hlen, fun j hj => ?_, hrest⟩
    rw [hbits j hj, List.getElem?_take_of_lt hj, List.getElem?_drop, getElem?_bufBits]
  case concat =>
    have haLen : ((bufBits a).take aLen).length = aLen := by rw [List.length_take, length_bufBits]; omega
    have hbLen : ((bufBits b).take bLen).length = bLen := by rw [List.length_take, length_bufBits]; omega
    obtain ⟨hlen, hbits, hrest⟩ := packBytes_bits (bits := (bufBits a).take aLen ++ (bufBits b).take bLen)
      (n := aLen + bLen) (by rw [List.length_append, haLen, hbLen])
    refine ⟨_, if_pos ⟨ha, hb⟩, hlen, fun j hj => ?_, fun j hj => ?_, hrest⟩
    · rw [hbits j (by omega), List.getElem?_append_left (by omega), List.getElem?_take_of_lt hj, getElem?_bufBits]
    · rw [hbits _ (by omega), List.getElem?_append_right (by omega), haLen, Nat.add_sub_cancel_left,
        List.getElem?_take_of_lt hj, getElem?_bufBits]

/-! ### Rotation and permutation -/

/-- The core library's rotation is Mathlib's, whose lemmas say where an entry comes from. -/
theorem rotateLeft_eq_rotate {α : Type} (l : List α) (k : Nat) : l.rotateLeft k = l.rotate k := by
  rw [List.rotateLeft]
  split_ifs with h
  · rcases l with _ | ⟨a, _ | ⟨b, l⟩⟩
    · rfl
    · exact (List.rotate_singleton a k).symm
    · simp at h
  · exact List.rotate_eq_drop_append_take_mod.symm

/-- Settles O29: both pack a list of as many bits, each taken from the place its rule names. -/
theorem bufferRotationAndPermutation : Obligations.BufferRotationAndPermutation := by
  refine ⟨fun s n k hpos hn => ?rotation, fun s T hT => ?permutation⟩
  case rotation =>
    have hlen : ((bufBits s).take n).length = n := by rw [List.length_take, length_bufBits]; omega
    obtain ⟨hbytes, hbits, -⟩ := packBytes_bits (bits := ((bufBits s).take n).rotateLeft (k % n)) (n := n)
      (by rw [rotateLeft_eq_rotate, List.length_rotate, hlen])
    refine ⟨_, if_pos ⟨hpos, hn⟩, hbytes, fun j hj => ?_⟩
    rw [hbits j hj, rotateLeft_eq_rotate, List.getElem?_rotate (hlen.symm ▸ hj), hlen, Nat.add_mod_mod,
      List.getElem?_take_of_lt (Nat.mod_lt _ hpos), getElem?_bufBits]
  case permutation =>
    obtain ⟨hbytes, hbits, -⟩ := packBytes_bits (bits := T.map fun t => (bufBits s).getD (t - 1) false) (n := T.length)
      (List.length_map _)
    refine ⟨_, if_pos (by simpa using hT), hbytes, fun j hj => ?_⟩
    obtain ⟨hlo, hhi⟩ := hT T[j] (List.getElem_mem hj)
    rw [hbits j hj, List.getElem?_map, List.getElem?_eq_getElem hj, List.getD_eq_getElem _ _ hj,
      getBit_eq_some_getD (by omega), Option.map_some]

end Sys2Proof.Machine.Proofs
end

section
/-!
PROOF. The initial permutations, and the consequences of the key schedule (40_bitvector.md R84; 41_key_schedule.md R92).
-/

namespace Sys2Proof.Machine.Proofs

open Sys2Proof.Machine.Laws

/-- Settles O27: the two tables look each other up. -/
theorem initialPermutationsAreInverse : Obligations.InitialPermutationsAreInverse := fun s =>
  ⟨permIPInv_permIP s, permIP_permIPInv s⟩

/-! ### The rotations of sixteen rounds -/

theorem rotl_rotl {n : Nat} (s : BitVec n) (a b : Nat) : rotl (rotl s a) b = rotl s (a + b) := by
  refine str_ext fun i hi => ?_
  have hmod : (i + b) % n < n := Nat.mod_lt _ (by omega)
  rw [strBit_rotl, strBit_rotl, strBit_rotl, decide_eq_true hmod, Bool.true_and, Nat.mod_add_mod, Nat.add_assoc,
    Nat.add_comm b a]

theorem rotl_zero {n : Nat} (s : BitVec n) : rotl s 0 = s :=
  str_ext fun i hi => by rw [strBit_rotl, decide_eq_true hi, Bool.true_and, Nat.add_zero, Nat.mod_eq_of_lt hi]

theorem rotl_width {n : Nat} (s : BitVec n) : rotl s n = s :=
  str_ext fun i hi => by rw [strBit_rotl, decide_eq_true hi, Bool.true_and, Nat.add_mod_right, Nat.mod_eq_of_lt hi]

/-- How far C and D have been rotated after the rounds 0 to n - 1 (41_key_schedule.md R90). -/
def totalShift : Nat → Nat
  | 0 => 0
  | n + 1 => totalShift n + shiftAmount n

/-- The rotations are cumulative (41_key_schedule.md R91). -/
theorem halvesAfter_eq (K : BitVec 64) (n : Nat) :
    halvesAfter K n = (rotl (keyHalves K).1 (totalShift n), rotl (keyHalves K).2 (totalShift n)) := by
  induction n with
  | zero => rw [halvesAfter, totalShift, rotl_zero, rotl_zero]
  | succ n ih => rw [halvesAfter, ih, rotateHalves, rotl_rotl, rotl_rotl, totalShift]

theorem halvesAfter_sixteen (K : BitVec 64) : halvesAfter K 16 = keyHalves K := by
  have htotal : totalShift 16 = 28 := by decide
  rw [halvesAfter_eq, htotal, rotl_width, rotl_width]

/-! ### The bits the schedule reads -/

theorem perm_congr {n m : Nat} {T : List Nat} {s t : BitVec n}
    (h : ∀ i < m, strBit s (T.getD i 0 - 1) = strBit t (T.getD i 0 - 1)) : perm m T s = perm m T t :=
  bitsOf_congr h

theorem keyHalves_congr {K K' : BitVec 64} (h : permPC1 K = permPC1 K') : keyHalves K = keyHalves K' := by
  rw [keyHalves, keyHalves, h]

/-- The schedule sees the key through its halves alone. -/
theorem keySchedule_congr {K K' : BitVec 64} (h : keyHalves K = keyHalves K') : keySchedule K = keySchedule K' := by
  simp only [keySchedule, subkey, halvesAfter_eq, h]

/-- No entry of PC-1 names the low bit of a byte (40_bitvector.md R87). -/
theorem keySchedule_ignores_low_bits {K K' : BitVec 64} (h : ∀ j, j < 64 → j % 8 ≠ 7 → strBit K j = strBit K' j) :
    keySchedule K = keySchedule K' := by
  have hentries : ∀ i < 56, tablePC1.getD i 0 - 1 < 64 ∧ (tablePC1.getD i 0 - 1) % 8 ≠ 7 := by decide
  refine keySchedule_congr (keyHalves_congr (perm_congr fun i hi => ?_))
  obtain ⟨hlt, hlow⟩ := hentries i hi
  exact h _ hlt hlow

/-! ### The key of zeros -/

theorem strBit_zero (n i : Nat) : strBit (0#n) i = false := BitVec.getMsbD_zero

theorem perm_zero (n m : Nat) (T : List Nat) : perm m T (0#n) = 0#m :=
  str_ext fun i _ => by rw [strBit_perm, strBit_zero, strBit_zero, Bool.and_false]

theorem substr_zero (n a len : Nat) : substr (0#n) a len = 0#len :=
  str_ext fun i _ => by rw [strBit_substr, strBit_zero, strBit_zero, Bool.and_false]

theorem zero_rotl (n k : Nat) : rotl (0#n) k = 0#n :=
  str_ext fun i _ => by rw [strBit_rotl, strBit_zero, strBit_zero, Bool.and_false]

/-- Every operation of the schedule keeps zeros. -/
theorem keySchedule_zero : keySchedule 0#64 = Vector.replicate 16 0#48 := by
  have hhalves : keyHalves 0#64 = (0#28, 0#28) := by rw [keyHalves, permPC1, perm_zero, substr_zero, substr_zero]
  refine Vector.ext fun j hj => ?_
  rw [getElem_keySchedule, Vector.getElem_replicate, subkey, halvesAfter_eq, hhalves, zero_rotl, subkeyOf, permPC2]
  exact perm_zero 56 48 tablePC2

/-- Settles O30: the shifts add up to a whole turn, PC-1 skips the low bits, and without them the key 01×8 is zero. -/
theorem keyScheduleConsequences : Obligations.KeyScheduleConsequences := by
  refine ⟨halvesAfter_sixteen, fun _ _ => keySchedule_ignores_low_bits, ?_⟩
  have hbits : ∀ j < 64, j % 8 ≠ 7 → strBit 0x0101010101010101#64 j = strBit 0#64 j := by decide
  rw [keySchedule_ignores_low_bits hbits, keySchedule_zero]

end Sys2Proof.Machine.Proofs
end

section
/-!
PROOF. Byte strings as lists of blocks (00_scope.md R8; 20_memory.md R48, R52).
-/

namespace Sys2Proof.Machine.Proofs

open Sys2Proof.Machine.Laws

/-! ### Strings of bytes -/

/-- The string of the `n` bytes `f 0` to `f (n - 1)`, byte 0 first. -/
def joinBytes (f : Nat → Byte) : (n : Nat) → BitVec (8 * n)
  | 0 => 0#0
  | n + 1 => joinBytes f n ++ f n

/-- Bit i of byte j stands at 8j + i. -/
theorem strBit_joinBytes (f : Nat → Byte) {n j i : Nat} (hj : j < n) (hi : i < 8) :
    strBit (joinBytes f n) (8 * j + i) = strBit (f j) i := by
  induction n with
  | zero => omega
  | succ n ih =>
    have happend : strBit (joinBytes f (n + 1)) (8 * j + i) =
        if 8 * n ≤ 8 * j + i then strBit (f n) (8 * j + i - 8 * n) else strBit (joinBytes f n) (8 * j + i) :=
      strBit_append (joinBytes f n) (f n) (8 * j + i)
    rw [happend]
    split_ifs with h
    · obtain rfl : j = n := by omega
      rw [Nat.add_sub_cancel_left]
    · exact ih (by omega)

/-- Byte j of a string of bytes. -/
theorem substr_joinBytes (f : Nat → Byte) {n j : Nat} (hj : j < n) : substr (joinBytes f n) (8 * j) 8 = f j :=
  str_ext fun i hi => by rw [strBit_substr, decide_eq_true hi, Bool.true_and, strBit_joinBytes f hj hi]

/-- A string of whole bytes is what its bytes make. -/
theorem joinBytes_substr {n : Nat} (s : BitVec (8 * n)) : joinBytes (fun j => substr s (8 * j) 8) n = s := by
  refine str_ext fun x hx => ?_
  have hx' : 8 * (x / 8) + x % 8 = x := Nat.div_add_mod x 8
  have hlt : x % 8 < 8 := Nat.mod_lt x (by decide)
  calc strBit (joinBytes (fun j => substr s (8 * j) 8) n) x
      = strBit (joinBytes (fun j => substr s (8 * j) 8) n) (8 * (x / 8) + x % 8) := by rw [hx']
    _ = strBit (substr s (8 * (x / 8)) 8) (x % 8) := strBit_joinBytes _ (by omega) hlt
    _ = strBit s x := by rw [strBit_substr, decide_eq_true hlt, Bool.true_and, hx']

theorem readBytes_eq_joinBytes (m : Memory) (off n : Nat) :
    m.readBytes off n = joinBytes (fun j => m.read (off + j)) n := by
  induction n with
  | zero => rfl
  | succ n ih => rw [Memory.readBytes, joinBytes, ih]

/-! ### Blocks -/

/-- A block of eight bytes, from its first eight bytes. -/
theorem append_bytes_eq_joinBytes (f : Nat → Byte) :
    f 0 ++ f 1 ++ f 2 ++ f 3 ++ f 4 ++ f 5 ++ f 6 ++ f 7 = joinBytes f 8 := by
  have hfirst : joinBytes f 1 = f 0 := BitVec.zero_width_append 0#0 (f 0)
  calc f 0 ++ f 1 ++ f 2 ++ f 3 ++ f 4 ++ f 5 ++ f 6 ++ f 7
      = joinBytes f 1 ++ f 1 ++ f 2 ++ f 3 ++ f 4 ++ f 5 ++ f 6 ++ f 7 := by rw [hfirst]
    _ = joinBytes f 8 := rfl

@[simp] theorem length_blockBytes (b : Block) : (blockBytes b).length = 8 := by simp [blockBytes]

theorem blockBytes_joinBytes (f : Nat → Byte) : blockBytes (joinBytes f 8) = (List.range 8).map f :=
  List.map_congr_left fun _ hj => substr_joinBytes f (List.mem_range.1 hj)

/-- The bytes of a block in front of a byte string are its first block. -/
theorem toBlocks_blockBytes_append (b : Block) (rest : List Byte) :
    toBlocks (blockBytes b ++ rest) = b :: toBlocks rest := by
  have hjoin : joinBytes (fun j => substr b (8 * j) 8) 8 = b := joinBytes_substr (n := 8) b
  have hcons : toBlocks (blockBytes b ++ rest) = joinBytes (fun j => substr b (8 * j) 8) 8 :: toBlocks rest := by
    rw [← append_bytes_eq_joinBytes]
    rfl
  rw [hcons, hjoin]

theorem ofBlocks_cons (b : Block) (bs : List Block) : ofBlocks (b :: bs) = blockBytes b ++ ofBlocks bs := rfl

@[simp] theorem length_ofBlocks (bs : List Block) : (ofBlocks bs).length = 8 * bs.length := by
  induction bs with
  | nil => rfl
  | cons b bs ih => rw [ofBlocks_cons, List.length_append, length_blockBytes, ih, List.length_cons]; omega

@[simp] theorem toBlocks_ofBlocks (bs : List Block) : toBlocks (ofBlocks bs) = bs := by
  induction bs with
  | nil => rfl
  | cons b bs ih => rw [ofBlocks_cons, toBlocks_blockBytes_append, ih]

/-- Every byte string of whole blocks is that of a list of blocks. -/
theorem exists_eq_ofBlocks {n : Nat} {l : List Byte} (h : l.length = 8 * n) : ∃ bs, bs.length = n ∧ l = ofBlocks bs := by
  induction n generalizing l with
  | zero => exact ⟨[], rfl, List.eq_nil_of_length_eq_zero h⟩
  | succ n ih =>
    obtain ⟨bs, hlen, hrest⟩ := ih (l := l.drop 8) (by rw [List.length_drop]; omega)
    refine ⟨joinBytes (l.getD · 0#8) 8 :: bs, by rw [List.length_cons, hlen], ?_⟩
    have hfirst : l.take 8 = (List.range 8).map (l.getD · 0#8) := by
      refine List.ext_getElem (by simp; omega) fun j hj hj' => ?_
      simp at hj
      simp [List.getD_eq_getElem?_getD, hj]
    rw [ofBlocks_cons, blockBytes_joinBytes, ← hfirst, ← hrest, List.take_append_drop]

theorem length_toBlocks {n : Nat} {l : List Byte} (h : l.length = 8 * n) : (toBlocks l).length = n := by
  obtain ⟨bs, hlen, rfl⟩ := exists_eq_ofBlocks h
  rw [toBlocks_ofBlocks, hlen]

theorem ofBlocks_toBlocks {n : Nat} {l : List Byte} (h : l.length = 8 * n) : ofBlocks (toBlocks l) = l := by
  obtain ⟨bs, -, rfl⟩ := exists_eq_ofBlocks h
  rw [toBlocks_ofBlocks]

end Sys2Proof.Machine.Proofs
end

section
/-!
PROOF. The chained encryption and decryption of blocks (44_cbc_padding.md R117, R118, R130).
-/

namespace Sys2Proof.Machine.Proofs

variable (tw : TwistTables) (ks : Vector Subkey 16)

/-! ### Round trip -/

@[simp] theorem length_cbcEncBlocks (iv : Block) (ps : List Block) : (cbcEncBlocks tw ks iv ps).length = ps.length := by
  induction ps generalizing iv with
  | nil => rfl
  | cons p ps ih => rw [cbcEncBlocks, List.length_cons, ih, List.length_cons]

theorem transform_dec_enc (b : Block) : transform tw ks .dec (transform tw ks .enc b) = b :=
  transform_turned_transform tw ks .enc b

/-- Decryption undoes encryption block by block, both chaining on the same ciphertext blocks. -/
theorem cbcDecBlocks_cbcEncBlocks (iv : Block) (ps : List Block) :
    cbcDecBlocks tw ks iv (cbcEncBlocks tw ks iv ps) = ps := by
  induction ps generalizing iv with
  | nil => rfl
  | cons p ps ih => rw [cbcEncBlocks, cbcDecBlocks, ih, transform_dec_enc, BitVec.xor_assoc, BitVec.xor_self, BitVec.xor_zero]

/-- A padded message is one block more than its whole blocks. -/
theorem length_padBytes_eq (m : List Byte) : (padBytes m).length = 8 * (m.length / 8 + 1) := by
  rw [length_padBytes, padlen]
  omega

theorem length_cbcEncrypt (m : List Byte) (K : BitVec 64) : (cbcEncrypt tw m K).length = m.length + padlen m.length := by
  rw [cbcEncrypt, length_ofBlocks, length_cbcEncBlocks, length_toBlocks (length_padBytes_eq m), ← length_padBytes_eq,
    length_padBytes]

/-- Before unpad, decryption gives back the padded message. -/
theorem cbcDecryptRaw_cbcEncrypt (m : List Byte) (K : BitVec 64) : cbcDecryptRaw tw (cbcEncrypt tw m K) K = padBytes m := by
  rw [cbcDecryptRaw, cbcEncrypt, toBlocks_ofBlocks, cbcDecBlocks_cbcEncBlocks, ofBlocks_toBlocks (length_padBytes_eq m)]

theorem cbcDecrypt_cbcEncrypt (m : List Byte) (K : BitVec 64) : cbcDecrypt tw (cbcEncrypt tw m K) K = some m := by
  rw [cbcDecrypt, cbcDecryptRaw_cbcEncrypt, unpadBytes_padBytes]

/-- Settles O37: blocks decrypt to the padded message, which unpads to the message. -/
theorem cbcRoundTrip : Obligations.CbcRoundTrip := fun tw m K =>
  ⟨length_cbcEncrypt tw m K, cbcDecrypt_cbcEncrypt tw m K⟩

/-! ### How changes spread -/

theorem transform_injective (dir : Dir) : Function.Injective (transform tw ks dir) :=
  Function.LeftInverse.injective (transform_turned_transform tw ks dir)

/-- A decrypted block is made of its ciphertext block and the one before it (44_cbc_padding.md R118). -/
theorem getElem?_cbcDecBlocks (iv : Block) (cs : List Block) (k : Nat) :
    (cbcDecBlocks tw ks iv cs)[k]? = (cs[k]?).map fun c => transform tw ks .dec c ^^^ (iv :: cs).getD k iv := by
  induction cs generalizing iv k with
  | nil => rfl
  | cons c cs ih =>
    cases k with
    | zero => rfl
    | succ k =>
      rw [cbcDecBlocks, List.getElem?_cons_succ, List.getElem?_cons_succ, List.getD_cons_succ, ih]
      cases hk : cs[k]? with
      | none => rfl
      | some x =>
        have hlt : k < cs.length := (List.getElem?_eq_some_iff.1 hk).1
        have hlt' : k < (c :: cs).length := Nat.lt_succ_of_lt hlt
        rw [Option.map_some, Option.map_some, List.getD_eq_getElem _ _ hlt', List.getD_eq_getElem _ _ hlt']

/-- Settles O38: block j enters decrypted block j through the transform, which is injective, and the next one by xor. -/
theorem cbcErrorPropagation : Obligations.CbcErrorPropagation := by
  intro tw ks iv cs j δ hj hδ
  have hc : cs[j]? = some cs[j] := List.getElem?_eq_getElem hj
  have hchain (k : Nat) (hk : k ≠ j + 1) : (iv :: cs.modify j (· ^^^ δ)).getD k iv = (iv :: cs).getD k iv := by
    cases k with
    | zero => rfl
    | succ k =>
      have hne : j ≠ k := fun h => hk (h ▸ rfl)
      simp [List.getD_eq_getElem?_getD, hne]
  refine ⟨?own, ?next, fun k hkj hkj1 => ?others⟩
  case own =>
    rw [getElem?_cbcDecBlocks, getElem?_cbcDecBlocks, hchain j (by omega), List.getElem?_modify, hc]
    intro h
    have hxor : cs[j] ^^^ δ = cs[j] := by
      simpa [transform_injective tw ks .dec |>.eq_iff] using h
    exact hδ (by simpa using hxor)
  case next =>
    have hprev : (iv :: cs.modify j (· ^^^ δ)).getD (j + 1) iv = (iv :: cs).getD (j + 1) iv ^^^ δ := by
      simp [List.getD_eq_getElem?_getD, hc]
    rw [getElem?_cbcDecBlocks, getElem?_cbcDecBlocks, hprev, List.getElem?_modify, Option.map_map]
    simp [Function.comp_def, BitVec.xor_assoc]
  case others =>
    have hne : j ≠ k := Ne.symm hkj
    rw [getElem?_cbcDecBlocks, getElem?_cbcDecBlocks, hchain k hkj1, List.getElem?_modify]
    simp [hne]

/-- Another chaining value changes every ciphertext block. -/
theorem cbcEncBlocks_iv_ne {iv iv' : Block} (hiv : iv' ≠ iv) {ps : List Block} {k : Nat} (hk : k < ps.length) :
    (cbcEncBlocks tw ks iv' ps)[k]? ≠ (cbcEncBlocks tw ks iv ps)[k]? := by
  induction ps generalizing iv iv' k with
  | nil => exact absurd hk (Nat.not_lt_zero k)
  | cons p ps ih =>
    have hhead : transform tw ks .enc (p ^^^ iv') ≠ transform tw ks .enc (p ^^^ iv) := fun h =>
      hiv ((BitVec.xor_right_inj p).1 (transform_injective tw ks .enc h))
    cases k with
    | zero => exact fun h => hhead (Option.some.inj h)
    | succ k => exact ih hhead (Nat.lt_of_succ_lt_succ hk)

/-- Another plaintext block changes its ciphertext block, which is the chaining value of the next. -/
theorem cbcEncBlocks_set_ne {iv : Block} {ps : List Block} {j k : Nat} {b : Block} (hb : ps[j]? ≠ some b) (hjk : j ≤ k)
    (hk : k < ps.length) : (cbcEncBlocks tw ks iv (ps.set j b))[k]? ≠ (cbcEncBlocks tw ks iv ps)[k]? := by
  induction ps generalizing iv j k with
  | nil => exact absurd hk (Nat.not_lt_zero k)
  | cons p ps ih =>
    cases j with
    | zero =>
      have hhead : transform tw ks .enc (b ^^^ iv) ≠ transform tw ks .enc (p ^^^ iv) := fun h =>
        hb (congrArg some ((BitVec.xor_left_inj iv).1 (transform_injective tw ks .enc h)).symm)
      cases k with
      | zero => exact fun h => hhead (Option.some.inj h)
      | succ k => exact cbcEncBlocks_iv_ne tw ks hhead (Nat.lt_of_succ_lt_succ hk)
    | succ j =>
      cases k with
      | zero => omega
      | succ k => exact ih hb (Nat.le_of_succ_le_succ hjk) (Nat.lt_of_succ_lt_succ hk)

/-- Settles O39: the changed block changes its own ciphertext block, and through the chaining value all later ones. -/
theorem plaintextAvalanche : Obligations.PlaintextAvalanche := fun tw ks _ _ _ _ _ hb _ => cbcEncBlocks_set_ne tw ks hb

end Sys2Proof.Machine.Proofs
end

section
/-!
PROOF. Blocks in a buffer: reading and storing several, and the padding at the end of a range (20_memory.md R48, R52 to R54;
44_cbc_padding.md R113, R114).
-/

namespace Sys2Proof.Machine.Proofs

open Sys2Proof.Machine.Laws

/-! ### Ranges of bytes -/

theorem bytes_append (m : Memory) (off a b : Nat) : m.bytes off (a + b) = m.bytes off a ++ m.bytes (off + a) b := by
  simp only [Memory.bytes, List.range_add, List.map_append, List.map_map, Function.comp_def, Nat.add_assoc]

theorem bytes_succ (m : Memory) (off n : Nat) : m.bytes off (n + 1) = m.bytes off n ++ [m.read (off + n)] :=
  bytes_append m off n 1

theorem bytes_congr {m m' : Memory} {off n : Nat} (h : ∀ j, j < n → m.read (off + j) = m'.read (off + j)) :
    m.bytes off n = m'.bytes off n := bytes_eq_bytes_iff.2 h

/-- What stands first in a range stands in the range of its own length. -/
theorem bytes_of_append_eq {m : Memory} {off n : Nat} {p q : List Byte} (h : m.bytes off n = p ++ q) :
    m.bytes off p.length = p := by
  have hn : n = p.length + q.length := by rw [← List.length_append, ← h, bytes_length]
  rw [hn, bytes_append] at h
  exact (List.append_inj h (bytes_length _ _ _)).1

/-! ### Several blocks -/

/-- The `n` blocks of a buffer from block `i` on. -/
def readBlocks (m : Memory) (i : Nat) : Nat → List Block
  | 0 => []
  | n + 1 => m.readBlock i :: readBlocks m (i + 1) n

/-- A buffer with a list of blocks stored from block `i` on. -/
def writeBlocks : List Block → Nat → Memory → Memory
  | [], _, m => m
  | b :: bs, i, m => writeBlocks bs (i + 1) (m.writeBlock i b)

@[simp] theorem length_readBlocks (m : Memory) (i n : Nat) : (readBlocks m i n).length = n := by
  induction n generalizing i with
  | zero => rfl
  | succ n ih => rw [readBlocks, List.length_cons, ih]

theorem readBlocks_writeBlock_below (m : Memory) {i k : Nat} (v : Block) (h : i < k) (n : Nat) :
    readBlocks (m.writeBlock i v) k n = readBlocks m k n := by
  induction n generalizing k with
  | zero => rw [readBlocks, readBlocks]
  | succ n ih => rw [readBlocks, readBlocks, readBlock_writeBlock_other m v (by omega), ih (by omega)]

/-- Storing blocks leaves every byte outside their range. -/
theorem read_writeBlocks_outside (m : Memory) (i : Nat) (bs : List Block) {a : Nat}
    (h : a < 8 * i ∨ 8 * (i + bs.length) ≤ a) : (writeBlocks bs i m).read a = m.read a := by
  induction bs generalizing m i with
  | nil => rfl
  | cons b bs ih =>
    rw [List.length_cons] at h
    have hrest : a < 8 * (i + 1) ∨ 8 * (i + 1 + bs.length) ≤ a := by omega
    have hfirst : a < 8 * i ∨ 8 * i + 8 ≤ a := by omega
    rw [writeBlocks, ih (m.writeBlock i b) (i + 1) hrest, read_writeBlock_outside m i b a hfirst]

/-- Blocks that are stored are read back. -/
theorem readBlocks_writeBlocks (m : Memory) (i : Nat) (bs : List Block) :
    readBlocks (writeBlocks bs i m) i bs.length = bs := by
  induction bs generalizing m i with
  | nil => rfl
  | cons b bs ih =>
    have hkept : (writeBlocks bs (i + 1) (m.writeBlock i b)).readBlock i = (m.writeBlock i b).readBlock i :=
      readBytes_congr fun j hj => read_writeBlocks_outside (m.writeBlock i b) (i + 1) bs (.inl (by omega))
    rw [writeBlocks, List.length_cons, readBlocks, hkept, readBlock_writeBlock, ih]

/-! ### Blocks as bytes -/

theorem bytes_block (m : Memory) (i : Nat) : m.bytes (8 * i) 8 = blockBytes (m.readBlock i) := by
  rw [Memory.readBlock, readBytes_eq_joinBytes, blockBytes_joinBytes, Memory.bytes]

theorem bytes_eq_ofBlocks (m : Memory) (i n : Nat) : m.bytes (8 * i) (8 * n) = ofBlocks (readBlocks m i n) := by
  induction n generalizing i with
  | zero => rfl
  | succ n ih =>
    have hn : 8 * (n + 1) = 8 + 8 * n := by omega
    have hi : 8 * (i + 1) = 8 * i + 8 := by omega
    rw [readBlocks, ofBlocks_cons, ← ih, ← bytes_block, hn, hi, bytes_append]

theorem toBlocks_bytes (m : Memory) (n : Nat) : toBlocks (m.bytes 0 (8 * n)) = readBlocks m 0 n := by
  have h : m.bytes 0 (8 * n) = ofBlocks (readBlocks m 0 n) := bytes_eq_ofBlocks m 0 n
  rw [h, toBlocks_ofBlocks]

theorem bytes_writeBlocks (m : Memory) (bs : List Block) : (writeBlocks bs 0 m).bytes 0 (8 * bs.length) = ofBlocks bs := by
  have h : (writeBlocks bs 0 m).bytes 0 (8 * bs.length) = ofBlocks (readBlocks (writeBlocks bs 0 m) 0 bs.length) :=
    bytes_eq_ofBlocks _ 0 _
  rw [h, readBlocks_writeBlocks]

/-! ### Padding in a buffer -/

/-- The buffer with the padding of its first `n` bytes stored behind them (44_cbc_padding.md R121). -/
def padded (m : Memory) (n : Nat) : Memory := m.writeList n (padTail n)

theorem bytes_padded (m : Memory) (n : Nat) : (padded m n).bytes 0 (n + padlen n) = padBytes (m.bytes 0 n) := by
  have hkept : (padded m n).bytes 0 n = m.bytes 0 n := bytes_congr fun j hj => by
    rw [Nat.zero_add]
    exact (read_writeList_padTail m n).2.2 j (.inl hj)
  have htail : (padded m n).bytes n (padlen n) = padTail n := by
    rw [← length_padTail n]
    exact bytes_writeList m n (padTail n)
  rw [bytes_append, hkept, Nat.zero_add, htail, padBytes, bytes_length]

theorem read_padded_above (m : Memory) {n a : Nat} (h : n + padlen n ≤ a) : (padded m n).read a = m.read a :=
  (read_writeList_padTail m n).2.2 a (.inr h)

theorem unpadBytes_concat (l : List Byte) (b : Byte) : unpadBytes (l ++ [b]) = if b = 0x00#8 then unpadBytes l else some l := by
  rw [unpadBytes, unpadBytes, List.reverse_append, List.reverse_singleton, List.singleton_append, dropPadding]
  split_ifs
  · rfl
  · rw [Option.map_some, List.reverse_reverse]

/-- `unpad` of a range drops the zeros that the scan counts and one byte more, and has no result when the range is all
zeros (44_cbc_padding.md R114, R122). -/
theorem unpadBytes_bytes (m : Memory) (n : Nat) :
    unpadBytes (m.bytes 0 n) =
      if n < m.trailingZeros n + 1 then none else some (m.bytes 0 (n - m.trailingZeros n - 1)) := by
  induction n with
  | zero => rfl
  | succ n ih =>
    rw [bytes_succ, unpadBytes_concat, Nat.zero_add, Memory.trailingZeros]
    by_cases hzero : m.read n = 0x00#8
    · rw [if_pos hzero, if_pos hzero, ih]
      simp only [Nat.add_lt_add_iff_right, Nat.add_sub_add_right]
    · rw [if_neg hzero, if_neg hzero, if_neg (by omega), Nat.sub_zero, Nat.add_sub_cancel]

/-- The result of `unpad` stands at the start of its range. -/
theorem bytes_of_unpadBytes {m : Memory} {n : Nat} {p : List Byte} (h : unpadBytes (m.bytes 0 n) = some p) :
    m.bytes 0 p.length = p := by
  obtain ⟨b, z, -, hb⟩ := unpadBytes_eq_some_iff.1 h
  exact bytes_of_append_eq hb

theorem length_le_of_unpadBytes {m : Memory} {n : Nat} {p : List Byte} (h : unpadBytes (m.bytes 0 n) = some p) :
    p.length ≤ n := by
  obtain ⟨b, z, -, hb⟩ := unpadBytes_eq_some_iff.1 h
  have hlen := congrArg List.length hb
  rw [bytes_length, List.length_append] at hlen
  omega

end Sys2Proof.Machine.Proofs
end

section
/-!
PROOF. Runs of the engine through the phases of a command (41_key_schedule.md R93; 43_block_cipher.md R108; 44_cbc_padding.md
R119 to R123).
-/

namespace Sys2Proof.Machine.Proofs

open Sys2Proof.Machine.Laws

/-! ### Runs -/

theorem engineRun_one {s t : State} (h : engineStep s = .next t) : engineRun 1 s = .next t :=
  engineRun_succ.2 ⟨t, h, rfl⟩

/-- A run, and one micro-step after it. -/
theorem engineRun_snoc {k : Nat} {s t u : State} (hrun : engineRun k s = .next t) (hstep : engineStep t = .next u) :
    engineRun (k + 1) s = .next u :=
  engineRun_add hrun (engineRun_one hstep)

/-- A run passes through every shorter one. -/
theorem engineRun_shorter {j k : Nat} {s t : State} (h : engineRun k s = .next t) (hjk : j ≤ k) :
    ∃ u, engineRun j s = .next u ∧ engineRun (k - j) u = .next t := by
  induction j generalizing s k with
  | zero => exact ⟨s, rfl, h⟩
  | succ j ih =>
    obtain ⟨k, rfl⟩ := Nat.exists_eq_add_of_le' (Nat.one_le_of_lt hjk)
    obtain ⟨v, hstep, hrun⟩ := engineRun_succ.1 h
    obtain ⟨u, hju, hku⟩ := ih hrun (Nat.le_of_succ_le_succ hjk)
    exact ⟨u, engineRun_succ.2 ⟨v, hstep, hju⟩, by rwa [Nat.add_sub_add_right]⟩

theorem EngineFrame.refl (s : State) : EngineFrame s s := by constructor <;> rfl

theorem EngineFrame.trans {s t u : State} (hst : EngineFrame s t) (htu : EngineFrame t u) : EngineFrame s u where
  ie := htu.ie.trans hst.ie
  wdrop := htu.wdrop.trans hst.wdrop
  key0Set := htu.key0Set.trans hst.key0Set
  key1Set := htu.key1Set.trans hst.key1Set
  keyreg := htu.keyreg.trans hst.keyreg
  len := htu.len.trans hst.len
  vlen := htu.vlen.trans hst.vlen
  vbuf := htu.vbuf.trans hst.vbuf
  draws := htu.draws.trans hst.draws
  prog := htu.prog.trans hst.prog
  sched := htu.sched.trans hst.sched
  replies := htu.replies.trans hst.replies
  op := htu.op.trans hst.op
  nlen := htu.nlen.trans hst.nlen
  nvlen := htu.nvlen.trans hst.nvlen
  dirn := htu.dirn.trans hst.dirn
  mode := htu.mode.trans hst.mode

theorem engineRun_frame {k : Nat} {s t : State} (h : engineRun k s = .next t) : EngineFrame s t := by
  induction k generalizing s with
  | zero => exact Host.Outcome.next.inj h ▸ EngineFrame.refl s
  | succ k ih =>
    obtain ⟨u, hstep, hrun⟩ := engineRun_succ.1 h
    exact (microStep_of_engineStep hstep).frame.trans (ih hrun)

/-! ### The KEYGEN phase -/

/-- What the KEYGEN phase keeps beside the engine's frame. -/
structure KeygenFrame (s t : State) : Prop extends EngineFrame s t where
  busy : t.busy = s.busy
  mbuf : t.mbuf = s.mbuf
  nblk : t.nblk = s.nblk
  rlen : t.rlen = s.rlen
  vok : t.vok = s.vok
  epend : t.epend = s.epend

theorem KeygenFrame.trans {s t u : State} (hst : KeygenFrame s t) (htu : KeygenFrame t u) : KeygenFrame s u where
  toEngineFrame := hst.toEngineFrame.trans htu.toEngineFrame
  busy := htu.busy.trans hst.busy
  mbuf := htu.mbuf.trans hst.mbuf
  nblk := htu.nblk.trans hst.nblk
  rlen := htu.rlen.trans hst.rlen
  vok := htu.vok.trans hst.vok
  epend := htu.epend.trans hst.epend

theorem keygenStep_frame {s t : State} (hphase : s.seq.phase = .keygen) (h : keygenStep s = .next t) : KeygenFrame s t := by
  have hframe := (microStep_of_engineStep ((engineStep_keygen hphase).trans h)).frame
  obtain ⟨-, rfl⟩ | ⟨-, p, -, rfl⟩ := keygenStep_cases h <;> exact ⟨hframe, rfl, rfl, rfl, rfl, rfl, rfl⟩

/-- The rounds 0 to r - 1 of the KEYGEN phase. -/
theorem keygenRounds_run {s : State} (hseq : s.seq = { phase := .keygen, block := 0#16, round := 0#4 }) {r : Nat}
    (hr : r ≤ 15) : ∃ t, engineRun r s = .next t ∧ KeygenFrame s t ∧ RoundsDone t ∧
      t.seq = { phase := .keygen, block := 0#16, round := BitVec.ofNat 4 r } := by
  induction r with
  | zero =>
    refine ⟨s, rfl, ?_, fun h => absurd h ?_, hseq⟩
    · exact ⟨EngineFrame.refl s, rfl, rfl, rfl, rfl, rfl, rfl⟩
    · rw [hseq]
      exact Nat.lt_irrefl 0
  | succ r ih =>
    obtain ⟨t, hrun, hframe, hdone, htseq⟩ := ih (by omega)
    have hround : t.seq.round.toNat = r := by
      rw [htseq]
      exact Nat.mod_eq_of_lt (by omega)
    have hphase : t.seq.phase = .keygen := by rw [htseq]
    have hstep := keygenStep_next (s := t) (by omega)
    refine ⟨_, engineRun_snoc hrun ((engineStep_keygen hphase).trans hstep), hframe.trans (keygenStep_frame hphase hstep),
      roundsDone_succ hdone (by omega), ?_⟩
    rw [goto_seq, htseq, BitVec.ofNat_add]

/-- The whole KEYGEN phase: the schedule of the key, valid, and the command's next phase (41_key_schedule.md R93). -/
theorem keygen_run {s : State} (hseq : s.seq = { phase := .keygen, block := 0#16, round := 0#4 }) {p : Phase}
    (hp : phaseAfterKeygen s.op = some p) : ∃ t, engineRun 16 s = .next t ∧ KeygenFrame s t ∧ t.ksv = true ∧
      t.ks = keySchedule s.keyreg ∧ t.seq = { phase := p, block := 0#16, round := 0#4 } := by
  obtain ⟨t, hrun, hframe, hdone, htseq⟩ := keygenRounds_run hseq (Nat.le_refl 15)
  have hround : t.seq.round.toNat = 15 := by rw [htseq]; rfl
  have hphase : t.seq.phase = .keygen := by rw [htseq]
  have hstep := keygenStep_last (s := t) hround (hframe.op ▸ hp)
  refine ⟨_, engineRun_snoc hrun ((engineStep_keygen hphase).trans hstep), hframe.trans (keygenStep_frame hphase hstep),
    rfl, ?_, rfl⟩
  exact (keygenData_ks_eq_keySchedule hdone hround).trans (congrArg keySchedule hframe.keyreg)

/-! ### The rounds of a block -/

/-- `s` with L and R after the rounds 0 to n - 1. -/
def withRounds (s : State) (n : Nat) (seq : Seq) : State :=
  { s with
    l := (feistelRounds Config.twist s.ks s.dirn n (s.l, s.r)).1
    r := (feistelRounds Config.twist s.ks s.dirn n (s.l, s.r)).2
    seq := seq }

theorem rounds_run_of_le {s : State} {b : BitVec 16} (hseq : s.seq = { phase := .round, block := b, round := 0#4 }) {n : Nat}
    (hn : n ≤ 15) :
    engineRun n s = .next (withRounds s n { phase := .round, block := b, round := BitVec.ofNat 4 n }) := by
  induction n with
  | zero =>
    rw [engineRun_zero, withRounds, ← hseq]
    rfl
  | succ n ih =>
    have hround : (BitVec.ofNat 4 n).toNat = n := Nat.mod_eq_of_lt (by omega)
    have hlt : (BitVec.ofNat 4 n).toNat < 15 := by omega
    have hstep := (engineStep_round rfl).trans
      (roundStep_eq (withRounds s n { phase := .round, block := b, round := BitVec.ofNat 4 n }))
    refine (engineRun_snoc (ih (by omega)) hstep).trans (congrArg Host.Outcome.next ?_)
    rw [withRounds, if_pos hlt, BitVec.ofNat_add]
    rfl

/-- The sixteen rounds of a block (43_block_cipher.md R107, R108). -/
theorem rounds_run {s : State} {b : BitVec 16} (hseq : s.seq = { phase := .round, block := b, round := 0#4 }) :
    engineRun 16 s = .next (withRounds s 16 { phase := .store, block := b, round := 0#4 }) :=
  engineRun_snoc (rounds_run_of_le hseq (Nat.le_refl 15)) ((engineStep_round rfl).trans (roundStep_eq _))

/-! ### A block -/

/-- What becomes of a block by MODE, under chaining value `iv` (44_cbc_padding.md R119, R120). -/
def chainOut (mode : Mode) (ks : Vector Subkey 16) (dir : Dir) (iv blk : Block) : Block :=
  match mode with
  | .ecb1 => transform Config.twist ks dir blk
  | .cbce => transform Config.twist ks dir (blk ^^^ iv)
  | .cbcd => transform Config.twist ks dir blk ^^^ iv

/-- The chaining value after it: the ciphertext block, in both CBC modes (44_cbc_padding.md R120). -/
def chainNext (mode : Mode) (ks : Vector Subkey 16) (dir : Dir) (iv blk : Block) : Block :=
  match mode with
  | .ecb1 => iv
  | .cbce => transform Config.twist ks dir (blk ^^^ iv)
  | .cbcd => blk

/-- A list of blocks, each under the chaining value the one before it left. -/
def chainBlocks (mode : Mode) (ks : Vector Subkey 16) (dir : Dir) : Block → List Block → List Block
  | _, [] => []
  | iv, b :: bs => chainOut mode ks dir iv b :: chainBlocks mode ks dir (chainNext mode ks dir iv b) bs

@[simp] theorem length_chainBlocks (mode : Mode) (ks : Vector Subkey 16) (dir : Dir) (iv : Block) (bs : List Block) :
    (chainBlocks mode ks dir iv bs).length = bs.length := by
  induction bs generalizing iv with
  | nil => rfl
  | cons b bs ih => rw [chainBlocks, List.length_cons, ih, List.length_cons]

theorem chainBlocks_cbce (ks : Vector Subkey 16) (iv : Block) (bs : List Block) :
    chainBlocks .cbce ks .enc iv bs = cbcEncBlocks Config.twist ks iv bs := by
  induction bs generalizing iv with
  | nil => rfl
  | cons b bs ih => rw [chainBlocks, cbcEncBlocks, ← ih]; rfl

theorem chainBlocks_cbcd (ks : Vector Subkey 16) (iv : Block) (bs : List Block) :
    chainBlocks .cbcd ks .dec iv bs = cbcDecBlocks Config.twist ks iv bs := by
  induction bs generalizing iv with
  | nil => rfl
  | cons b bs ih => rw [chainBlocks, cbcDecBlocks, ← ih]; rfl

/-! ### LOAD, ROUND and STORE -/

/-- What the block phases keep beside the engine's frame. -/
structure BlocksFrame (s t : State) : Prop extends EngineFrame s t where
  busy : t.busy = s.busy
  ksv : t.ksv = s.ksv
  ks : t.ks = s.ks
  nblk : t.nblk = s.nblk
  rlen : t.rlen = s.rlen
  vok : t.vok = s.vok
  epend : t.epend = s.epend

theorem BlocksFrame.trans {s t u : State} (hst : BlocksFrame s t) (htu : BlocksFrame t u) : BlocksFrame s u where
  toEngineFrame := hst.toEngineFrame.trans htu.toEngineFrame
  busy := htu.busy.trans hst.busy
  ksv := htu.ksv.trans hst.ksv
  ks := htu.ks.trans hst.ks
  nblk := htu.nblk.trans hst.nblk
  rlen := htu.rlen.trans hst.rlen
  vok := htu.vok.trans hst.vok
  epend := htu.epend.trans hst.epend

/-- `s` after LOAD and the sixteen rounds of its block. -/
def transformed (s : State) : State :=
  withRounds ((s.loadData (s.mbuf.readBlock s.seq.block.toNat)).goto .round s.seq.block 0#4) 16
    { phase := .store, block := s.seq.block, round := 0#4 }

/-- What STORE joins is the transform of what LOAD split. -/
theorem joinBlock_transformed (s : State) : joinBlock ((transformed s).l, (transformed s).r) =
    transform Config.twist s.ks s.dirn (s.loadInput (s.mbuf.readBlock s.seq.block.toNat)) := by
  rw [transform]
  rfl

theorem transformed_storeOutput (s : State) : (transformed s).storeOutput =
    chainOut s.mode s.ks s.dirn s.loadIV (s.mbuf.readBlock s.seq.block.toNat) := by
  have hmode : (transformed s).mode = s.mode := rfl
  have hiv : (transformed s).iv = s.loadIV := rfl
  rw [storeOutput_eq_ite, joinBlock_transformed, hmode, hiv, loadInput_eq_ite]
  cases s.mode <;> rfl

theorem transformed_storeIV (s : State) : (transformed s).storeIV =
    chainNext s.mode s.ks s.dirn s.loadIV (s.mbuf.readBlock s.seq.block.toNat) := by
  have hmode : (transformed s).mode = s.mode := rfl
  have hiv : (transformed s).iv = s.loadIV := rfl
  have hcsave : (transformed s).csave = if s.mode = .cbcd then s.mbuf.readBlock s.seq.block.toNat else s.csave := rfl
  rw [storeIV_eq_ite, joinBlock_transformed, hmode, hiv, hcsave, loadInput_eq_ite]
  cases s.mode <;> rfl

/-- LOAD, sixteen rounds and STORE of one block: 18 micro-steps (44_cbc_padding.md R119, R120). -/
theorem block_run {s : State} {b : BitVec 16} (hseq : s.seq = { phase := .load, block := b, round := 0#4 })
    (hrange : 8 * b.toNat + 8 ≤ Config.nBuf) : ∃ t, engineRun 18 s = .next t ∧ BlocksFrame s t ∧ t.seq = s.storeNext ∧
      t.iv = chainNext s.mode s.ks s.dirn s.loadIV (s.mbuf.readBlock b.toNat) ∧
      t.mbuf = s.mbuf.writeBlock b.toNat (chainOut s.mode s.ks s.dirn s.loadIV (s.mbuf.readBlock b.toNat)) := by
  obtain rfl : b = s.seq.block := by rw [hseq]
  have hload := engineRun_one ((engineStep_load (by rw [hseq])).trans (loadStep_next hrange))
  have hstore := (engineStep_store rfl).trans (storeStep_next (s := transformed s) hrange)
  have hrun := engineRun_add hload (engineRun_snoc (rounds_run rfl) hstore)
  rw [transformed_storeOutput, transformed_storeIV] at hrun
  exact ⟨_, hrun, ⟨engineRun_frame hrun, rfl, rfl, rfl, rfl, rfl, rfl, rfl⟩, rfl, rfl, rfl⟩

/-- Where the sequencer goes after the last block (44_cbc_padding.md R120). -/
def afterBlocks (op : BitVec 4) : Phase := if op = opcode .decrypt ∨ op = opcode .verify then .unpad else .finish

theorem storeNext_of_last {s : State} (h : s.seq.block.toNat + 1 = s.nblk.toNat) :
    s.storeNext.phase = afterBlocks s.op := by
  rw [State.storeNext, if_neg (by omega), afterBlocks]
  split_ifs <;> rfl

theorem storeNext_of_more {s : State} (h : s.seq.block.toNat + 1 < s.nblk.toNat) :
    s.storeNext = { phase := .load, block := s.seq.block + 1#16, round := 0#4 } := by
  rw [State.storeNext, if_pos h]

theorem loadIV_of_pos {s : State} (h : 0 < s.seq.block.toNat) : s.loadIV = s.iv := by
  have hne : s.seq.block ≠ 0#16 := fun h0 => by simp [h0] at h
  rw [State.loadIV, if_neg fun hc => hne hc.1]

/-- The last n + 1 blocks of a command, the first of them block b: each is chained to the one before it (44_cbc_padding.md
R119, R120). -/
theorem blocks_run {n : Nat} {s : State} {b : BitVec 16} (hseq : s.seq = { phase := .load, block := b, round := 0#4 })
    (hn : b.toNat + (n + 1) = s.nblk.toNat) (hrange : 8 * s.nblk.toNat ≤ Config.nBuf) :
    ∃ t, engineRun (18 * (n + 1)) s = .next t ∧ BlocksFrame s t ∧ t.seq.phase = afterBlocks s.op ∧
      t.mbuf = writeBlocks (chainBlocks s.mode s.ks s.dirn s.loadIV (readBlocks s.mbuf b.toNat (n + 1))) b.toNat s.mbuf := by
  induction n generalizing s b with
  | zero =>
    obtain ⟨t, hrun, hframe, htseq, -, hmbuf⟩ := block_run hseq (by omega)
    refine ⟨t, hrun, hframe, ?_, hmbuf⟩
    rw [htseq]
    exact storeNext_of_last (by rw [hseq]; exact hn)
  | succ n ih =>
    obtain ⟨t, hrun, hframe, hnext, hiv, hmbuf⟩ := block_run hseq (by omega)
    have hb : (b + 1#16).toNat = b.toNat + 1 := toNat_succ_block (n := s.nblk) (by omega)
    have htseq : t.seq = { phase := .load, block := b + 1#16, round := 0#4 } := by
      rw [hnext, storeNext_of_more (by rw [hseq]; show b.toNat + 1 < s.nblk.toNat; omega), hseq]
    have hload : t.loadIV = t.iv := loadIV_of_pos (by rw [htseq]; show 0 < (b + 1#16).toNat; omega)
    obtain ⟨u, hrest, huframe, huphase, humbuf⟩ := ih htseq (by rw [hframe.nblk]; omega) (by rw [hframe.nblk]; exact hrange)
    refine ⟨u, ?_, hframe.trans huframe, huphase.trans (congrArg afterBlocks hframe.op), ?_⟩
    · have hcount : 18 * (n + 1 + 1) = 18 + 18 * (n + 1) := by omega
      rw [hcount]
      exact engineRun_add hrun hrest
    · have hblocks : readBlocks s.mbuf b.toNat (n + 1 + 1) =
          s.mbuf.readBlock b.toNat :: readBlocks s.mbuf (b.toNat + 1) (n + 1) := rfl
      rw [humbuf, hload, hiv, hframe.mode, hframe.ks, hframe.dirn, hb, hmbuf,
        readBlocks_writeBlock_below _ _ (Nat.lt_succ_self _), hblocks, chainBlocks, writeBlocks]

/-! ### UNPAD and COMPARE -/

/-- UNPAD, as the function `unpad` of MBUF[0, NLEN) says it (44_cbc_padding.md R114, R122). -/
theorem unpadBytes_nlen (s : State) : unpadBytes (s.mbuf.bytes 0 s.nlen.toNat) =
    if s.nlen.toNat < s.zeroTail + 1 then none else some (s.mbuf.bytes 0 (s.nlen.toNat - s.zeroTail - 1)) :=
  unpadBytes_bytes s.mbuf s.nlen.toNat

theorem unpadStep_none {s : State} (hrange : s.nlen.toNat ≤ Config.nBuf)
    (h : unpadBytes (s.mbuf.bytes 0 s.nlen.toNat) = none) : unpadStep s = .next (s.raise .padUnderflow) := by
  rw [unpadBytes_nlen] at h
  rw [unpadStep_next hrange]
  by_cases hlt : s.nlen.toNat < s.zeroTail + 1
  · rw [if_pos hlt]
  · rw [if_neg hlt] at h
    cases h

theorem unpadStep_some {s : State} (hrange : s.nlen.toNat ≤ Config.nBuf) {p : List Byte}
    (h : unpadBytes (s.mbuf.bytes 0 s.nlen.toNat) = some p) :
    unpadStep s = .next (State.goto { s with rlen := BitVec.ofNat 32 p.length }
      (if s.op = opcode .verify then .compare else .finish) s.seq.block 0#4) := by
  rw [unpadBytes_nlen] at h
  rw [unpadStep_next hrange]
  by_cases hlt : s.nlen.toNat < s.zeroTail + 1
  · rw [if_pos hlt] at h
    cases h
  · rw [if_neg hlt] at h
    obtain rfl := Option.some.inj h
    rw [if_neg hlt, bytes_length]

/-- COMPARE after UNPAD compares its result with VBUF[0, VLEN) (44_cbc_padding.md R123). -/
theorem compareResult_of_unpadBytes {s : State} {n : Nat} {p : List Byte} (hn : n ≤ Config.nBuf)
    (h : unpadBytes (s.mbuf.bytes 0 n) = some p) (hrlen : s.rlen = BitVec.ofNat 32 p.length) :
    s.compareResult = decide (p.length = s.nvlen.toNat ∧ p = s.vbuf.bytes 0 p.length) := by
  have hlen : s.rlen.toNat = p.length := by
    rw [hrlen, toNat_ofNat_word ((length_le_of_unpadBytes h).trans hn)]
  have heq : s.rlen = s.nvlen ↔ p.length = s.nvlen.toNat := by rw [← BitVec.toNat_inj, hlen]
  rw [State.compareResult, hlen, bytes_of_unpadBytes h, Bool.decide_and, decide_eq_decide.2 heq, beq_eq_decide]

end Sys2Proof.Machine.Proofs
end

section
/-!
PROOF. What FINISH finds at the end of each command: the run of an accepted command up to its FINISH step, and the ending it
comes to, as a function of the operands alone (41_key_schedule.md R95; 43_block_cipher.md R110, R111; 44_cbc_padding.md R125
to R129).
-/

namespace Sys2Proof.Machine.Proofs

open Sys2Proof.Machine.Laws

/-! ### Endings -/

/-- What an accepted command starts from (60_exceptions.md R133). -/
def started (s : State) (i : Instr) : State := s.clearResults.start i (latchOf s i)

/-- What a command has computed when it comes to its FINISH step. -/
structure Ending where
  mbuf : Memory
  rlen : Word
  nblk : BitVec 16
  epend : ErrCode
  vok : Bool

/-- The first `n` blocks of a buffer, transformed and chained as command `i` does under the key of `s`. -/
def chained (s : State) (i : Instr) (m : Memory) (n : Nat) : Memory :=
  writeBlocks (chainBlocks (modeOf i) (keySchedule s.keyreg) (dirOf i) fixedIV (readBlocks m 0 n)) 0 m

/-- The ending by `unpad` of the first `n` bytes of a buffer, with the verdict on its result. -/
def unpadEnding (m : Memory) (n : Nat) (nblk : BitVec 16) (verdict : List Byte → Bool) : Ending :=
  match unpadBytes (m.bytes 0 n) with
  | none => { mbuf := m, rlen := 0#32, nblk := nblk, epend := .padUnderflow, vok := false }
  | some p => { mbuf := m, rlen := BitVec.ofNat 32 p.length, nblk := nblk, epend := .none, vok := verdict p }

/-- VERIFY's verdict: exact length and content match with VBUF[0, VLEN) (44_cbc_padding.md R123). -/
def matchesVbuf (s : State) (p : List Byte) : Bool := decide (p.length = s.vlen.toNat ∧ p = s.vbuf.bytes 0 p.length)

/-- The ending of each command, from KEYREG, LEN, VLEN, MBUF and VBUF at its acceptance. -/
def endingOf (s : State) : Instr → Ending
  | .keygen => { mbuf := s.mbuf, rlen := 0#32, nblk := 0#16, epend := .none, vok := false }
  | .blockEnc => { mbuf := chained s .blockEnc s.mbuf 1, rlen := 8#32, nblk := 1#16, epend := .none, vok := false }
  | .blockDec => { mbuf := chained s .blockDec s.mbuf 1, rlen := 8#32, nblk := 1#16, epend := .none, vok := false }
  | .pad => {
      mbuf := padded s.mbuf s.len.toNat, rlen := BitVec.ofNat 32 (s.len.toNat + padlen s.len.toNat)
      nblk := 0#16, epend := .none, vok := false }
  | .unpad => unpadEnding s.mbuf s.len.toNat 0#16 fun _ => false
  | .encrypt => {
      mbuf := chained s .encrypt (padded s.mbuf s.len.toNat) (s.len.toNat / 8 + 1)
      rlen := BitVec.ofNat 32 (s.len.toNat + padlen s.len.toNat)
      nblk := BitVec.ofNat 16 (s.len.toNat / 8 + 1), epend := .none, vok := false }
  | .decrypt => unpadEnding (chained s .decrypt s.mbuf (s.len.toNat / 8)) s.len.toNat
      (BitVec.ofNat 16 (s.len.toNat / 8)) fun _ => false
  | .verify => unpadEnding (chained s .verify s.mbuf (s.len.toNat / 8)) s.len.toNat
      (BitVec.ofNat 16 (s.len.toNat / 8)) (matchesVbuf s)

/-- Command `i`, accepted in `s`, runs in `t`; the subkey table is the key's when the command needs it, and else as it was. -/
structure InCommand (s : State) (i : Instr) (t : State) : Prop extends EngineFrame (started s i) t where
  busy : t.busy = true
  keyed : needsKey i = true → t.ksv = true ∧ t.ks = keySchedule s.keyreg
  unkeyed : needsKey i = false → t.ksv = s.ksv ∧ t.ks = s.ks

/-- The command stands before its FINISH step with ending `e`. -/
structure AtFinish (s : State) (i : Instr) (e : Ending) (w : State) : Prop extends InCommand s i w where
  phase : w.seq.phase = .finish
  mbuf : w.mbuf = e.mbuf
  rlen : w.rlen = e.rlen
  nblk : w.nblk = e.nblk
  epend : w.epend = e.epend
  vok : w.vok = e.vok

/-- The command comes to its FINISH step with ending `e` after `k` micro-steps. -/
def Reaches (s : State) (i : Instr) (k : Nat) (e : Ending) : Prop :=
  ∃ w, engineRun k (started s i) = .next w ∧ AtFinish s i e w

/-! ### The phases of an accepted command -/

/-- A command goes on through micro-steps that keep BUSY and the subkey table. -/
theorem InCommand.after {s t u : State} {i : Instr} {k : Nat} (ht : InCommand s i t) (hrun : engineRun k t = .next u)
    (hbusy : u.busy = t.busy) (hksv : u.ksv = t.ksv) (hks : u.ks = t.ks) : InCommand s i u where
  toEngineFrame := ht.toEngineFrame.trans (engineRun_frame hrun)
  busy := hbusy.trans ht.busy
  keyed hkey := ⟨hksv.trans (ht.keyed hkey).1, hks.trans (ht.keyed hkey).2⟩
  unkeyed hkey := ⟨hksv.trans (ht.unkeyed hkey).1, hks.trans (ht.unkeyed hkey).2⟩

/-- The KEYGEN phase of a command that needs the key. -/
theorem keygenPhase_run {i : Instr} (hkey : needsKey i = true) (s : State) :
    ∃ t, engineRun 16 (started s i) = .next t ∧ KeygenFrame (started s i) t ∧ InCommand s i t ∧
      t.seq = { phase := (phasesOf i).getD 1 .finish, block := 0#16, round := 0#4 } := by
  have hfirst : firstPhase i = .keygen := by cases i <;> cases hkey <;> rfl
  have hseq : (started s i).seq = { phase := .keygen, block := 0#16, round := 0#4 } := by
    rw [started, start_seq, latchOf, hfirst]
  obtain ⟨t, hrun, hframe, hksv, hks, htseq⟩ := keygen_run hseq (phaseAfterKeygen_opcode hkey)
  exact ⟨t, hrun, hframe, ⟨hframe.toEngineFrame, hframe.busy, fun _ => ⟨hksv, hks⟩, fun hno => absurd hkey (by simp [hno])⟩,
    htseq⟩

/-- A single block without chaining does not see the chaining value. -/
theorem chainBlocks_ecb1_singleton (ks : Vector Subkey 16) (dir : Dir) (iv b : Block) :
    chainBlocks .ecb1 ks dir iv [b] = [transform Config.twist ks dir b] := rfl

/-- The block phases of a command, from its first block on. -/
theorem blockPhases_run {s t : State} {i : Instr} {n : Nat} (ht : InCommand s i t) (hkey : needsKey i = true)
    (hseq : t.seq = { phase := .load, block := 0#16, round := 0#4 }) (hn : t.nblk.toNat = n + 1)
    (hrange : 8 * (n + 1) ≤ Config.nBuf) (hone : modeOf i = .ecb1 → n = 0) :
    ∃ u, engineRun (18 * (n + 1)) t = .next u ∧ BlocksFrame t u ∧ InCommand s i u ∧
      u.seq.phase = afterBlocks (opcode i) ∧ u.mbuf = chained s i t.mbuf (n + 1) := by
  obtain ⟨u, hrun, hframe, hphase, hmbuf⟩ := blocks_run (n := n) hseq (by rw [hn]; exact Nat.zero_add _) (hn ▸ hrange)
  obtain ⟨-, hks⟩ := ht.keyed hkey
  refine ⟨u, hrun, hframe, ht.after hrun hframe.busy hframe.ksv hframe.ks, hphase.trans (congrArg afterBlocks ht.op), ?_⟩
  have hmode : t.mode = modeOf i := ht.mode
  have hdirn : t.dirn = dirOf i := ht.dirn
  rw [hmbuf, chained, hmode, hdirn, hks]
  by_cases hecb : modeOf i = .ecb1
  · obtain rfl := hone hecb
    rw [hecb]
    rfl
  · have hiv : t.loadIV = fixedIV := by rw [State.loadIV, if_pos ⟨by rw [hseq], hmode ▸ hecb⟩]
    rw [hiv]
    rfl

/-- UNPAD of a command other than VERIFY leads to FINISH. -/
theorem unpadPhase_run {s t : State} {i : Instr} (ht : InCommand s i t) (hi : i ≠ .verify) (hphase : t.seq.phase = .unpad)
    (hrange : s.len.toNat ≤ Config.nBuf) (hpend : t.epend = .none) (hvok : t.vok = false) :
    ∃ w, engineRun 1 t = .next w ∧ AtFinish s i (unpadEnding t.mbuf s.len.toNat t.nblk fun _ => false) w := by
  have hnlen : t.nlen = s.len := ht.nlen
  have hop : t.op ≠ opcode .verify := fun h => hi (opcode_injective (ht.op.symm.trans h))
  rw [← hnlen] at hrange ⊢
  have hunpad := engineStep_unpad hphase
  rw [unpadEnding]
  cases hp : unpadBytes (t.mbuf.bytes 0 t.nlen.toNat) with
  | none =>
    have hrun := engineRun_one (hunpad.trans (unpadStep_none hrange hp))
    exact ⟨_, hrun, ⟨ht.after hrun rfl rfl rfl, rfl, rfl, rfl, rfl, rfl, hvok⟩⟩
  | some p =>
    have hstep := hunpad.trans (unpadStep_some hrange hp)
    rw [if_neg hop] at hstep
    have hrun := engineRun_one hstep
    exact ⟨_, hrun, ⟨ht.after hrun rfl rfl rfl, rfl, rfl, rfl, rfl, hpend, hvok⟩⟩

/-- `t` before COMPARE, with `p` the result of UNPAD. -/
def comparing (t : State) (p : List Byte) : State :=
  State.goto { t with rlen := BitVec.ofNat 32 p.length } .compare t.seq.block 0#4

/-- UNPAD of VERIFY leads to FINISH when it raises PAD_UNDERFLOW, and else to COMPARE, which gives the verdict. -/
theorem unpadPhase_run_verify {s t : State} (ht : InCommand s .verify t) (hphase : t.seq.phase = .unpad)
    (hrange : s.len.toNat ≤ Config.nBuf) (hpend : t.epend = .none) (hvok : t.vok = false) :
    ∃ w, engineRun (if unpadBytes (t.mbuf.bytes 0 s.len.toNat) = none then 1 else 2) t = .next w ∧
      AtFinish s .verify (unpadEnding t.mbuf s.len.toNat t.nblk (matchesVbuf s)) w := by
  have hnlen : t.nlen = s.len := ht.nlen
  have hnvlen : t.nvlen = s.vlen := ht.nvlen
  have hvbuf : t.vbuf = s.vbuf := ht.vbuf
  have hop : t.op = opcode .verify := ht.op
  have hunpad := engineStep_unpad hphase
  rw [← hnlen] at hrange ⊢
  rw [unpadEnding]
  cases hp : unpadBytes (t.mbuf.bytes 0 t.nlen.toNat) with
  | none =>
    have hrun := engineRun_one (hunpad.trans (unpadStep_none hrange hp))
    exact ⟨_, hrun, ⟨ht.after hrun rfl rfl rfl, rfl, rfl, rfl, rfl, rfl, hvok⟩⟩
  | some p =>
    have hstep : engineStep t = .next (comparing t p) := by
      rw [hunpad, unpadStep_some hrange hp, if_pos hop, comparing]
    have hfits : (BitVec.ofNat 32 p.length).toNat ≤ Config.nBuf :=
      (Nat.mod_le _ _).trans ((length_le_of_unpadBytes hp).trans hrange)
    have hcompare := (engineStep_compare rfl).trans (compareStep_next (s := comparing t p) (.inr hfits))
    rw [compareResult_of_unpadBytes (s := comparing t p) hrange hp rfl] at hcompare
    have hrun := engineRun_snoc (engineRun_one hstep) hcompare
    refine ⟨_, hrun, ⟨ht.after hrun rfl rfl rfl, rfl, rfl, rfl, rfl, hpend, ?_⟩⟩
    show _ = matchesVbuf s p
    rw [matchesVbuf, ← hnvlen, ← hvbuf]
    rfl

/-! ### Each command -/

theorem inCommand_started {i : Instr} (hkey : needsKey i = false) (s : State) : InCommand s i (started s i) :=
  ⟨EngineFrame.refl _, rfl, fun h => absurd h (by simp [hkey]), fun _ => ⟨rfl, rfl⟩⟩

theorem keygen_reaches (s : State) : Reaches s .keygen 16 (endingOf s .keygen) := by
  obtain ⟨w, hrun, hframe, hw, hseq⟩ := keygenPhase_run (i := .keygen) rfl s
  exact ⟨w, hrun, hw, by rw [hseq]; rfl, hframe.mbuf, hframe.rlen, hframe.nblk, hframe.epend, hframe.vok⟩

/-- BLOCK_ENC and BLOCK_DEC come to FINISH after their block. -/
theorem block_reaches {i : Instr} (hi : i = .blockEnc ∨ i = .blockDec) (s : State) : Reaches s i 34
    { mbuf := chained s i s.mbuf 1, rlen := 8#32, nblk := 1#16, epend := .none, vok := false } := by
  obtain ⟨-, hmin, -⟩ := nBuf_bounds
  have hkey : needsKey i = true := by rcases hi with rfl | rfl <;> rfl
  have hload : (phasesOf i).getD 1 .finish = .load := by rcases hi with rfl | rfl <;> rfl
  have hend : afterBlocks (opcode i) = .finish := by rcases hi with rfl | rfl <;> rfl
  have hnblk : (started s i).nblk = 1#16 := by rcases hi with rfl | rfl <;> rfl
  have hrlen : (started s i).rlen = 8#32 := by rcases hi with rfl | rfl <;> rfl
  obtain ⟨t, hrun, hframe, ht, hseq⟩ := keygenPhase_run hkey s
  obtain ⟨w, hrun', hframe', hw, hphase, hmbuf⟩ := blockPhases_run (n := 0) ht hkey (hload ▸ hseq)
    (by rw [hframe.nblk, hnblk]; rfl) (by omega) fun _ => rfl
  exact ⟨w, engineRun_add hrun hrun', hw, hphase.trans hend, hmbuf.trans (by rw [hframe.mbuf]; rfl),
    hframe'.rlen.trans (hframe.rlen.trans hrlen), hframe'.nblk.trans (hframe.nblk.trans hnblk),
    hframe'.epend.trans hframe.epend, hframe'.vok.trans hframe.vok⟩

theorem pad_reaches {s : State} (ha : s.Accepts .pad) : Reaches s .pad 1 (endingOf s .pad) := by
  have hrun := engineRun_one ((engineStep_pad (s := started s .pad) rfl).trans (padStep_next (add_padlen_le_nBuf ha.2.2)))
  exact ⟨_, hrun, ⟨engineRun_frame hrun, rfl, nofun, fun _ => ⟨rfl, rfl⟩⟩, rfl, rfl, rfl, rfl, rfl, rfl⟩

theorem unpad_reaches {s : State} (ha : s.Accepts .unpad) : Reaches s .unpad 1 (endingOf s .unpad) :=
  unpadPhase_run (inCommand_started rfl s) nofun rfl ha.2.2 rfl rfl

/-- The PAD step of ENCRYPT, in front of its blocks. -/
theorem encryptPad_run {s t : State} (ha : s.Accepts .encrypt) (ht : InCommand s .encrypt t)
    (hseq : t.seq = { phase := .pad, block := 0#16, round := 0#4 }) (hmbuf : t.mbuf = s.mbuf) :
    ∃ u, engineRun 1 t = .next u ∧ InCommand s .encrypt u ∧ u.seq = { phase := .load, block := 0#16, round := 0#4 } ∧
      u.mbuf = padded s.mbuf s.len.toNat ∧ u.rlen = BitVec.ofNat 32 (s.len.toNat + padlen s.len.toNat) ∧
      u.nblk = BitVec.ofNat 16 (s.len.toNat / 8 + 1) ∧ u.epend = t.epend ∧ u.vok = t.vok := by
  have hnlen : t.nlen = s.len := ht.nlen
  have hop : t.op = opcode .encrypt := ht.op
  have hpadded : t.paddedLen = s.len.toNat + padlen s.len.toNat := by rw [State.paddedLen, hnlen]
  have hstep := (engineStep_pad (by rw [hseq])).trans
    (padStep_next (s := t) (hpadded.trans_le (add_padlen_le_nBuf ha.2.2)))
  rw [if_pos hop, if_pos hop] at hstep
  have hrun := engineRun_one hstep
  refine ⟨_, hrun, ht.after hrun rfl rfl rfl, rfl, ?_, ?_, ?_, rfl, rfl⟩
  · rw [goto_mbuf, padded, ← hmbuf, ← hnlen]
    rfl
  · exact congrArg (BitVec.ofNat 32) hpadded
  · exact congrArg (BitVec.ofNat 16) (by rw [hpadded, add_padlen_div_eight])

theorem encrypt_reaches {s : State} (ha : s.Accepts .encrypt) :
    Reaches s .encrypt (16 + 1 + 18 * (s.len.toNat / 8 + 1)) (endingOf s .encrypt) := by
  have hfits := add_padlen_le_nBuf ha.2.2
  have hblocks := add_padlen_div_eight s.len.toNat
  obtain ⟨t, hrun, hframe, ht, hseq⟩ := keygenPhase_run (i := .encrypt) rfl s
  obtain ⟨u, hrun', hu, huseq, hmbuf, hrlen, hnblk, hpend, hvok⟩ := encryptPad_run ha ht hseq hframe.mbuf
  have hcount : u.nblk.toNat = s.len.toNat / 8 + 1 := by rw [hnblk, ← hblocks, toNat_ofNat_blocks hfits]
  obtain ⟨w, hrun'', hframe', hw, hphase, hwmbuf⟩ := blockPhases_run hu rfl huseq hcount (by omega) nofun
  refine ⟨w, engineRun_add (engineRun_add hrun hrun') hrun'', hw, hphase, ?_, hframe'.rlen.trans hrlen,
    hframe'.nblk.trans hnblk, hframe'.epend.trans (hpend.trans hframe.epend), hframe'.vok.trans (hvok.trans hframe.vok)⟩
  rw [hwmbuf, hmbuf]
  rfl

/-- DECRYPT and VERIFY up to their UNPAD phase. -/
theorem decryptBlocks_run {s : State} {i : Instr} (hi : i = .decrypt ∨ i = .verify) (hpos : s.len.toNat ≠ 0)
    (hmod : s.len.toNat % 8 = 0) (hle : s.len.toNat ≤ Config.nBuf) :
    ∃ u, engineRun (16 + 18 * (s.len.toNat / 8)) (started s i) = .next u ∧ InCommand s i u ∧ u.seq.phase = .unpad ∧
      u.mbuf = chained s i s.mbuf (s.len.toNat / 8) ∧ u.nblk = BitVec.ofNat 16 (s.len.toNat / 8) ∧ u.epend = .none ∧
      u.vok = false := by
  have hkey : needsKey i = true := by rcases hi with rfl | rfl <;> rfl
  have hload : (phasesOf i).getD 1 .finish = .load := by rcases hi with rfl | rfl <;> rfl
  have hend : afterBlocks (opcode i) = .unpad := by rcases hi with rfl | rfl <;> rfl
  have hcbc : modeOf i ≠ .ecb1 := by rcases hi with rfl | rfl <;> nofun
  have hnblk : (started s i).nblk = BitVec.ofNat 16 (s.len.toNat / 8) := by rcases hi with rfl | rfl <;> rfl
  obtain ⟨n, hn⟩ : ∃ n, s.len.toNat / 8 = n + 1 := ⟨s.len.toNat / 8 - 1, by omega⟩
  have hcount : (BitVec.ofNat 16 (s.len.toNat / 8)).toNat = n + 1 := (toNat_ofNat_blocks hle).trans hn
  obtain ⟨t, hrun, hframe, ht, hseq⟩ := keygenPhase_run hkey s
  obtain ⟨u, hrun', hframe', hu, hphase, hmbuf⟩ := blockPhases_run (n := n) ht hkey (hload ▸ hseq)
    (by rw [hframe.nblk, hnblk, hcount]) (by omega) fun h => absurd h hcbc
  have hmbuf' : u.mbuf = chained s i s.mbuf (n + 1) := by rw [hmbuf, hframe.mbuf]; rfl
  have hall := engineRun_add hrun hrun'
  rw [← hn] at hmbuf' hall
  exact ⟨u, hall, hu, hphase.trans hend, hmbuf', hframe'.nblk.trans (hframe.nblk.trans hnblk),
    hframe'.epend.trans hframe.epend, hframe'.vok.trans hframe.vok⟩

theorem decrypt_reaches {s : State} (ha : s.Accepts .decrypt) :
    Reaches s .decrypt (16 + 18 * (s.len.toNat / 8) + 1) (endingOf s .decrypt) := by
  obtain ⟨hpos, hmod, hle⟩ := ha.2.2
  obtain ⟨u, hrun, hu, hphase, hmbuf, hnblk, hpend, hvok⟩ := decryptBlocks_run (.inl rfl) hpos hmod hle
  obtain ⟨w, hrun', hw⟩ := unpadPhase_run hu nofun hphase hle hpend hvok
  rw [hmbuf, hnblk] at hw
  exact ⟨w, engineRun_add hrun hrun', hw⟩

theorem verify_reaches {s : State} (ha : s.Accepts .verify) :
    Reaches s .verify (16 + 18 * (s.len.toNat / 8) + if (endingOf s .verify).epend = .none then 2 else 1)
      (endingOf s .verify) := by
  obtain ⟨hpos, hmod, hle, -⟩ := ha.2.2
  obtain ⟨u, hrun, hu, hphase, hmbuf, hnblk, hpend, hvok⟩ := decryptBlocks_run (.inr rfl) hpos hmod hle
  obtain ⟨w, hrun', hw⟩ := unpadPhase_run_verify hu hphase hle hpend hvok
  rw [hmbuf, hnblk] at hw
  have hend : (if unpadBytes (u.mbuf.bytes 0 s.len.toNat) = none then 1 else 2) =
      if (endingOf s .verify).epend = .none then 2 else 1 := by
    rw [hmbuf, endingOf, unpadEnding]
    cases unpadBytes ((chained s .verify s.mbuf (s.len.toNat / 8)).bytes 0 s.len.toNat) <;> rfl
  rw [hend] at hrun'
  exact ⟨w, engineRun_add hrun hrun', hw⟩

end Sys2Proof.Machine.Proofs
end

section
/-!
PROOF. Whole commands, from their acceptance to what FINISH leaves (41_key_schedule.md R95; 43_block_cipher.md R110, R111;
44_cbc_padding.md R125 to R130; 70_reset_and_hazards.md R160).
-/

namespace Sys2Proof.Machine.Proofs

open Sys2Proof.Machine.Laws

/-! ### The end of a command -/

/-- The engine steps R160 gives for command `i`, accepted in `s`. -/
def stepsOf (s : State) (i : Instr) : Nat := commandSteps i (blocksWhile i .finish s.len.toNat)

/-- The steps by which command `i` ends before that: VERIFY takes no COMPARE step when UNPAD raises PAD_UNDERFLOW. -/
def stepsSaved (s : State) (i : Instr) : Nat := if i = .verify ∧ (endingOf s i).epend ≠ .none then 1 else 0

/-- Command `i`, accepted in `s`, has ended in `u` with ending `e`. -/
structure Completed (s : State) (i : Instr) (e : Ending) (u : State) : Prop
    extends Finished s u e.epend e.rlen.toNat e.nblk.toNat e.vok where
  mbuf : u.mbuf = e.mbuf
  keyed : needsKey i = true → u.keysReady
  unkeyed : needsKey i = false → u.ksv = s.ksv ∧ u.ks = s.ks

theorem unpadEnding_of_none {m : Memory} {n : Nat} (h : unpadBytes (m.bytes 0 n) = none) (nblk : BitVec 16)
    (verdict : List Byte → Bool) : unpadEnding m n nblk verdict =
      { mbuf := m, rlen := 0#32, nblk := nblk, epend := .padUnderflow, vok := false } := by rw [unpadEnding, h]

theorem unpadEnding_of_some {m : Memory} {n : Nat} {p : List Byte} (h : unpadBytes (m.bytes 0 n) = some p) (nblk : BitVec 16)
    (verdict : List Byte → Bool) : unpadEnding m n nblk verdict =
      { mbuf := m, rlen := BitVec.ofNat 32 p.length, nblk := nblk, epend := .none, vok := verdict p } := by
  rw [unpadEnding, h]

@[simp] theorem unpadEnding_mbuf (m : Memory) (n : Nat) (nblk : BitVec 16) (verdict : List Byte → Bool) :
    (unpadEnding m n nblk verdict).mbuf = m := by
  rw [unpadEnding]
  split <;> rfl

/-- An ending that FINISH hands on as it is: no length with an error, and a match in VERIFY without one only. -/
def Ending.Proper (i : Instr) (e : Ending) : Prop :=
  (e.epend ≠ .none → e.rlen = 0#32) ∧ (e.vok = true → i = .verify ∧ e.epend = .none)

theorem unpadEnding_proper (i : Instr) (m : Memory) (n : Nat) (nblk : BitVec 16) {verdict : List Byte → Bool}
    (h : ∀ p, verdict p = true → i = .verify) : (unpadEnding m n nblk verdict).Proper i := by
  cases hp : unpadBytes (m.bytes 0 n) with
  | none =>
    rw [unpadEnding_of_none hp]
    exact ⟨fun _ => rfl, nofun⟩
  | some p =>
    rw [unpadEnding_of_some hp]
    exact ⟨fun hne => absurd rfl hne, fun hv => ⟨h p hv, rfl⟩⟩

theorem endingOf_proper (s : State) (i : Instr) : (endingOf s i).Proper i := by
  cases i
  case unpad | decrypt => exact unpadEnding_proper _ _ _ _ nofun
  case verify => exact unpadEnding_proper _ _ _ _ fun _ _ => rfl
  all_goals exact ⟨fun hne => absurd rfl hne, nofun⟩

/-- The FINISH step makes the ending the result (44_cbc_padding.md R124). -/
theorem AtFinish.completed {s w : State} {i : Instr} {e : Ending} (h : AtFinish s i e w) (he : e.Proper i) :
    Completed s i e w.finish := by
  obtain ⟨hrlen, hvok⟩ := he
  have hkeyreg : w.keyreg = s.keyreg := h.keyreg
  refine
    { busy := rfl, done := rfl, errcode := h.epend, outlen := ?outlen, verifyOk := ?verifyOk
      seq := ⟨rfl, congrArg BitVec.toNat h.nblk, rfl⟩
      ie := h.ie, wdrop := h.wdrop, key0Set := h.key0Set, key1Set := h.key1Set, len := h.len, vlen := h.vlen
      keyreg := hkeyreg, vbuf := h.vbuf, draws := h.draws, prog := h.prog, sched := h.sched, replies := h.replies
      mbuf := h.mbuf, keyed := ?keyed, unkeyed := h.unkeyed }
  case outlen =>
    rw [finish_outlen, h.epend, h.rlen]
    split_ifs with hnone
    · rfl
    · rw [hrlen hnone]
  case verifyOk =>
    have hop : w.op = opcode i := h.op
    rw [finish_verifyOk, h.epend, h.vok, hop]
    cases hv : e.vok with
    | false => rw [Bool.and_false]
    | true =>
      obtain ⟨rfl, hnone⟩ := hvok hv
      rw [hnone]
      rfl
  case keyed =>
    intro hkey
    obtain ⟨hksv, hks⟩ := h.keyed hkey
    exact ⟨hksv, hks.trans (congrArg keySchedule hkeyreg.symm)⟩

/-- Every accepted command comes to FINISH, one step before its count. -/
theorem reaches_finish {i : Instr} {s : State} (ha : s.Accepts i) :
    ∃ k, Reaches s i k (endingOf s i) ∧ k + 1 = stepsOf s i - stepsSaved s i := by
  cases i with
  | keygen => exact ⟨16, keygen_reaches s, rfl⟩
  | blockEnc => exact ⟨34, block_reaches (.inl rfl) s, rfl⟩
  | blockDec => exact ⟨34, block_reaches (.inr rfl) s, rfl⟩
  | pad => exact ⟨1, pad_reaches ha, rfl⟩
  | unpad => exact ⟨1, unpad_reaches ha, rfl⟩
  | encrypt => exact ⟨_, encrypt_reaches ha, rfl⟩
  | decrypt => exact ⟨_, decrypt_reaches ha, rfl⟩
  | verify =>
    refine ⟨_, verify_reaches ha, ?_⟩
    have hsteps : stepsOf s .verify = 16 + 18 * (s.len.toNat / 8) + 1 + 1 + 1 := rfl
    rw [hsteps, stepsSaved]
    by_cases hnone : (endingOf s .verify).epend = .none
    · rw [if_pos hnone, if_neg fun h => h.2 hnone]
      rfl
    · rw [if_neg hnone, if_pos ⟨rfl, hnone⟩]
      rfl

/-- An idle engine stays as it is. -/
theorem engineRun_idle {s : State} (h : s.seq.phase = .idle) (k : Nat) : engineRun k s = .next s := by
  induction k with
  | zero => rfl
  | succ k ih => exact engineRun_succ.2 ⟨s, engineStep_idle h, ih⟩

/-- Every accepted command ends, no later than R160 says, and stays ended. -/
theorem accepted_completes {i : Instr} {s : State} (ha : s.Accepts i) :
    ∃ u, engineRun (stepsOf s i - stepsSaved s i) (started s i) = .next u ∧ engineRun (stepsOf s i) (started s i) = .next u ∧
      Completed s i (endingOf s i) u := by
  obtain ⟨k, ⟨w, hrun, hw⟩, hk⟩ := reaches_finish ha
  have hend := engineRun_snoc hrun (engineStep_finish hw.phase)
  have hstay := engineRun_add hend (engineRun_idle (s := w.finish) rfl (stepsSaved s i))
  have hsum : k + 1 + stepsSaved s i = stepsOf s i := by omega
  rw [hsum] at hstay
  rw [hk] at hend
  exact ⟨w.finish, hend, hstay, hw.completed (endingOf_proper s i)⟩

/-- Up to its end the command runs. -/
theorem accepted_busy {i : Instr} {s : State} (ha : s.Accepts i) {k : Nat} (hk : k < stepsOf s i - stepsSaved s i) :
    ∃ v, engineRun k (started s i) = .next v ∧ v.busy = true := by
  obtain ⟨j, ⟨w, hrun, hw⟩, hj⟩ := reaches_finish ha
  obtain ⟨v, hv, hrest⟩ := engineRun_shorter hrun (j := k) (by omega)
  exact ⟨v, hv, busy_of_engineRun hrest hw.busy⟩

/-- Settles O19: a command runs up to its FINISH step, which is the last step counted, or for VERIFY the last but one. -/
theorem commandsFinishInCountedSteps : Obligations.CommandsFinishInCountedSteps := by
  intro i s ha
  obtain ⟨u, -, hrun, hu⟩ := accepted_completes ha
  refine ⟨_, u, exec_of_accepts ha, hrun, hu.busy, fun k hk => accepted_busy ha ?_⟩
  have hsaved : stepsSaved s i ≤ if i = .verify then 1 else 0 := by
    rw [stepsSaved]
    split_ifs with hs hv
    · exact Nat.le_refl 1
    · exact absurd hs.1 hv
    · exact Nat.zero_le 1
    · exact Nat.le_refl 0
  rw [stepsOf]
  omega

/-! ### KEYGEN, PAD, UNPAD and the single block -/

/-- Settles O11: the KEYGEN phase, and FINISH. -/
theorem keygenCompletes : Obligations.KeygenCompletes := by
  intro s ha
  obtain ⟨u, -, hrun, hu⟩ := accepted_completes ha
  exact ⟨_, u, exec_of_accepts ha, hrun, hu.toFinished, hu.keyed rfl, hu.mbuf⟩

theorem read_chained_above (s : State) (i : Instr) (m : Memory) {n a : Nat} (h : 8 * n ≤ a) :
    (chained s i m n).read a = m.read a :=
  read_writeBlocks_outside m 0 _ (.inr (by rwa [length_chainBlocks, length_readBlocks, Nat.zero_add]))

/-- The single block of BLOCK_ENC and BLOCK_DEC is not chained. -/
theorem chained_ecb1 {i : Instr} (hi : modeOf i = .ecb1) (s : State) (m : Memory) : chained s i m 1 =
    m.writeBlock 0 (transform Config.twist (keySchedule s.keyreg) (dirOf i) (m.readBlock 0)) := by
  have hone : readBlocks m 0 1 = [m.readBlock 0] := rfl
  rw [chained, hi, hone, chainBlocks_ecb1_singleton, writeBlocks, writeBlocks]

/-- What the single block commands leave in MBUF (43_block_cipher.md R110, R111). -/
theorem mbuf_of_chained_ecb1 {i : Instr} (hi : modeOf i = .ecb1) {s u : State} (h : u.mbuf = chained s i s.mbuf 1) :
    u.mbuf.readBlock 0 = transform Config.twist (keySchedule s.keyreg) (dirOf i) (s.mbuf.readBlock 0) ∧ sameAbove 8 s u := by
  refine ⟨?_, fun a ha => ?_⟩
  · rw [h, chained_ecb1 hi, readBlock_writeBlock]
  · rw [h, read_chained_above s i s.mbuf ha]

/-- Settles O12: the subkeys, block 0 in direction ENC, and FINISH. -/
theorem blockEncCompletes : Obligations.BlockEncCompletes := by
  intro s ha
  obtain ⟨u, -, hrun, hu⟩ := accepted_completes ha
  exact ⟨_, u, exec_of_accepts ha, hrun, hu.toFinished, hu.keyed rfl, mbuf_of_chained_ecb1 (i := .blockEnc) rfl hu.mbuf⟩

/-- Settles O13: the subkeys, block 0 in direction DEC, and FINISH. -/
theorem blockDecCompletes : Obligations.BlockDecCompletes := by
  intro s ha
  obtain ⟨u, -, hrun, hu⟩ := accepted_completes ha
  exact ⟨_, u, exec_of_accepts ha, hrun, hu.toFinished, hu.keyed rfl, mbuf_of_chained_ecb1 (i := .blockDec) rfl hu.mbuf⟩

/-- OUTLEN of PAD and ENCRYPT fits its register. -/
theorem toNat_paddedLen {n : Nat} (h : n ≤ Config.nBuf - 1) : (BitVec.ofNat 32 (n + padlen n)).toNat = n + padlen n :=
  toNat_ofNat_word (add_padlen_le_nBuf h)

/-- Settles O14: the PAD step stores the padding behind the message and nothing else. -/
theorem padCompletes : Obligations.PadCompletes := by
  intro s ha
  obtain ⟨u, -, hrun, hu⟩ := accepted_completes ha
  have hmbuf : u.mbuf = padded s.mbuf s.len.toNat := hu.mbuf
  refine ⟨_, u, exec_of_accepts ha, hrun, toNat_paddedLen ha.2.2 ▸ hu.toFinished, ?_, fun a habove => ?_, hu.unkeyed rfl⟩
  · rw [hmbuf, bytes_padded]
  · rw [hmbuf, read_padded_above s.mbuf habove]

/-- What a command that ends with UNPAD leaves, where `unpad` has a result. -/
theorem finished_of_unpadEnding_some {s u : State} {i : Instr} {m : Memory} {n : Nat} {nblk : BitVec 16}
    {verdict : List Byte → Bool} (hu : Completed s i (unpadEnding m n nblk verdict) u) (hn : n ≤ Config.nBuf) {p : List Byte}
    (hp : unpadBytes (m.bytes 0 n) = some p) : Finished s u .none p.length nblk.toNat (verdict p) := by
  have h := hu.toFinished
  rw [unpadEnding_of_some hp] at h
  rwa [toNat_ofNat_word ((length_le_of_unpadBytes hp).trans hn)] at h

/-- And where it has none. -/
theorem finished_of_unpadEnding_none {s u : State} {i : Instr} {m : Memory} {n : Nat} {nblk : BitVec 16}
    {verdict : List Byte → Bool} (hu : Completed s i (unpadEnding m n nblk verdict) u)
    (hp : unpadBytes (m.bytes 0 n) = none) : Finished s u .padUnderflow 0 nblk.toNat false := by
  have h := hu.toFinished
  rwa [unpadEnding_of_none hp] at h

/-- Settles O15: the UNPAD step takes its length from the zeros it counts, and writes no byte. -/
theorem unpadCompletes : Obligations.UnpadCompletes := by
  intro s ha
  obtain ⟨u, -, hrun, hu⟩ := accepted_completes ha
  have hmbuf : u.mbuf = s.mbuf := hu.mbuf.trans (unpadEnding_mbuf _ _ _ _)
  obtain ⟨hksv, hks⟩ := hu.unkeyed rfl
  refine ⟨_, u, exec_of_accepts ha, hrun, hmbuf, hksv, hks, fun p hp => ⟨?_, ?_⟩, finished_of_unpadEnding_none hu⟩
  · exact finished_of_unpadEnding_some hu ha.2.2 hp
  · rw [hmbuf, bytes_of_unpadBytes hp]

/-! ### ENCRYPT, DECRYPT and VERIFY -/

/-- The blocks of ENCRYPT are `cbc_encrypt` of the message behind which the padding stands (44_cbc_padding.md R117). -/
theorem bytes_chained_encrypt (s : State) (m : Memory) (n : Nat) :
    (chained s .encrypt (padded m n) (n / 8 + 1)).bytes 0 (n + padlen n) =
      cbcEncrypt Config.twist (m.bytes 0 n) s.keyreg := by
  have hlen : n + padlen n = 8 * (n / 8 + 1) := by rw [padlen]; omega
  have hblocks : readBlocks (padded m n) 0 (n / 8 + 1) = toBlocks (padBytes (m.bytes 0 n)) := by
    rw [← bytes_padded, hlen, toBlocks_bytes]
  have hout := bytes_writeBlocks (padded m n)
    (cbcEncBlocks Config.twist (keySchedule s.keyreg) fixedIV (readBlocks (padded m n) 0 (n / 8 + 1)))
  rw [length_cbcEncBlocks, length_readBlocks] at hout
  rw [cbcEncrypt, ← hblocks, hlen, ← hout, ← chainBlocks_cbce]
  rfl

/-- The blocks of DECRYPT and VERIFY are `cbc_decrypt` before unpad (44_cbc_padding.md R118). -/
theorem bytes_chained_decrypt {i : Instr} (hi : i = .decrypt ∨ i = .verify) (s : State) (m : Memory) {n : Nat}
    (hn : n % 8 = 0) : (chained s i m (n / 8)).bytes 0 n = cbcDecryptRaw Config.twist (m.bytes 0 n) s.keyreg := by
  have hlen : n = 8 * (n / 8) := by omega
  have hblocks : readBlocks m 0 (n / 8) = toBlocks (m.bytes 0 n) := by
    rw [← toBlocks_bytes, ← hlen]
  have hout := bytes_writeBlocks m
    (chainBlocks .cbcd (keySchedule s.keyreg) .dec fixedIV (readBlocks m 0 (n / 8)))
  rw [length_chainBlocks, length_readBlocks, ← hlen] at hout
  rw [cbcDecryptRaw, ← hblocks, ← chainBlocks_cbcd, ← hout]
  rcases hi with rfl | rfl <;> rfl

/-- An accepted ENCRYPT, for each use of O16. -/
theorem encrypt_completes {s : State} (ha : s.Accepts .encrypt) :
    ∃ u, engineRun (commandSteps .encrypt (s.len.toNat / 8 + 1)) (started s .encrypt) = .next u ∧
      Finished s u .none (s.len.toNat + padlen s.len.toNat) (s.len.toNat / 8 + 1) false ∧ u.keysReady ∧
      u.mbuf.bytes 0 (s.len.toNat + padlen s.len.toNat) =
        cbcEncrypt Config.twist (s.mbuf.bytes 0 s.len.toNat) s.keyreg ∧
      sameAbove (s.len.toNat + padlen s.len.toNat) s u := by
  have hfits := add_padlen_le_nBuf ha.2.2
  have hcount : (BitVec.ofNat 16 (s.len.toNat / 8 + 1)).toNat = s.len.toNat / 8 + 1 := by
    rw [← add_padlen_div_eight, toNat_ofNat_blocks hfits]
  obtain ⟨u, -, hrun, hu⟩ := accepted_completes ha
  have hmbuf : u.mbuf = chained s .encrypt (padded s.mbuf s.len.toNat) (s.len.toNat / 8 + 1) := hu.mbuf
  refine ⟨u, hrun, hcount ▸ toNat_paddedLen ha.2.2 ▸ hu.toFinished, hu.keyed rfl, ?_, fun a habove => ?_⟩
  · rw [hmbuf, bytes_chained_encrypt]
  · have hblocks : 8 * (s.len.toNat / 8 + 1) ≤ a := by
      rw [padlen] at habove
      omega
    rw [hmbuf, read_chained_above _ _ _ hblocks, read_padded_above _ habove]

/-- Settles O16: the subkeys, the padding, the blocks in their chain, and FINISH. -/
theorem encryptCompletes : Obligations.EncryptCompletes := by
  intro s ha
  obtain ⟨u, hu⟩ := encrypt_completes ha
  exact ⟨_, u, exec_of_accepts ha, hu⟩

/-- What an accepted DECRYPT or VERIFY has done when it ends, in the words of `cbc_decrypt`. -/
theorem decrypt_completed {s u : State} {i : Instr} {verdict : List Byte → Bool} (hi : i = .decrypt ∨ i = .verify)
    (hmod : s.len.toNat % 8 = 0) (hle : s.len.toNat ≤ Config.nBuf)
    (hu : Completed s i (unpadEnding (chained s i s.mbuf (s.len.toNat / 8)) s.len.toNat
      (BitVec.ofNat 16 (s.len.toNat / 8)) verdict) u) :
    u.keysReady ∧ u.mbuf.bytes 0 s.len.toNat = cbcDecryptRaw Config.twist (s.mbuf.bytes 0 s.len.toNat) s.keyreg ∧
      sameAbove s.len.toNat s u ∧
      (∀ p, cbcDecrypt Config.twist (s.mbuf.bytes 0 s.len.toNat) s.keyreg = some p →
        Finished s u .none p.length (s.len.toNat / 8) (verdict p)) ∧
      (cbcDecrypt Config.twist (s.mbuf.bytes 0 s.len.toNat) s.keyreg = none →
        Finished s u .padUnderflow 0 (s.len.toNat / 8) false) := by
  have hkey : needsKey i = true := by rcases hi with rfl | rfl <;> rfl
  have hmbuf : u.mbuf = chained s i s.mbuf (s.len.toNat / 8) := hu.mbuf.trans (unpadEnding_mbuf _ _ _ _)
  have hraw := bytes_chained_decrypt hi s s.mbuf hmod
  refine ⟨hu.keyed hkey, by rw [hmbuf, hraw], fun a habove => ?_, fun p hp => ?_, fun hp => ?_⟩
  · rw [hmbuf, read_chained_above s i s.mbuf (by omega)]
  · rw [cbcDecrypt, ← hraw] at hp
    exact toNat_ofNat_blocks hle ▸ finished_of_unpadEnding_some hu hle hp
  · rw [cbcDecrypt, ← hraw] at hp
    exact toNat_ofNat_blocks hle ▸ finished_of_unpadEnding_none hu hp

/-- Settles O17: the subkeys, the blocks in their chain, UNPAD of them, and FINISH. -/
theorem decryptCompletes : Obligations.DecryptCompletes := by
  intro s ha
  obtain ⟨-, hmod, hle⟩ := ha.2.2
  obtain ⟨u, -, hrun, hu⟩ := accepted_completes ha
  exact ⟨_, u, exec_of_accepts ha, hrun, decrypt_completed (.inl rfl) hmod hle hu⟩

/-- VERIFY saves its COMPARE step exactly when decryption has no result. -/
theorem epend_verify {s : State} (hmod : s.len.toNat % 8 = 0) : (endingOf s .verify).epend ≠ .none ↔
    cbcDecrypt Config.twist (s.mbuf.bytes 0 s.len.toNat) s.keyreg = none := by
  rw [cbcDecrypt, ← bytes_chained_decrypt (.inr rfl) s s.mbuf hmod, endingOf]
  cases hp : unpadBytes ((chained s .verify s.mbuf (s.len.toNat / 8)).bytes 0 s.len.toNat) with
  | none =>
    rw [unpadEnding_of_none hp]
    exact ⟨fun _ => rfl, nofun⟩
  | some p =>
    rw [unpadEnding_of_some hp]
    exact ⟨fun h => absurd rfl h, nofun⟩

/-- Settles O18: as DECRYPT, with the COMPARE step when UNPAD has a result. -/
theorem verifyCompletes : Obligations.VerifyCompletes := by
  intro s ha
  obtain ⟨-, hmod, hle, -⟩ := ha.2.2
  obtain ⟨u, hrun, hstay, hu⟩ := accepted_completes ha
  obtain ⟨hkeys, hmbuf, habove, hsome, hnone⟩ := decrypt_completed (.inr rfl) hmod hle hu
  refine ⟨_, u, exec_of_accepts ha, hkeys, hmbuf, habove, fun p hp => ⟨hstay, hsome p hp⟩, fun hp => ⟨?_, hnone hp⟩⟩
  rw [stepsSaved, if_pos ⟨rfl, (epend_verify hmod).2 hp⟩] at hrun
  exact hrun

/-! ### Results and operands -/

/-- An ending is a function of KEYREG, LEN, VLEN, MBUF and VBUF (44_cbc_padding.md R130 (c)). -/
theorem endingOf_congr (i : Instr) {s s' : State} (hkey : s'.keyreg = s.keyreg) (hlen : s'.len = s.len)
    (hvlen : s'.vlen = s.vlen) (hmbuf : s'.mbuf = s.mbuf) (hvbuf : s'.vbuf = s.vbuf) : endingOf s' i = endingOf s i := by
  have hchain (i : Instr) (m : Memory) (n : Nat) : chained s' i m n = chained s i m n := by rw [chained, chained, hkey]
  have hmatch : matchesVbuf s' = matchesVbuf s := funext fun p => by rw [matchesVbuf, matchesVbuf, hvlen, hvbuf]
  cases i <;> simp only [endingOf, hchain, hmatch, hlen, hmbuf]

theorem seq_eq_of_fields {q q' : Seq} (hphase : q.phase = q'.phase) (hblock : q.block = q'.block)
    (hround : q.round = q'.round) : q = q' := by
  cases q
  cases q'
  rw [Seq.mk.injEq]
  exact ⟨hphase, hblock, hround⟩

/-- Settles O20: both commands end, with the same ending. -/
theorem resultDependsOnOperandsOnly : Obligations.ResultDependsOnOperandsOnly := by
  intro i s s' t t' ha ha' hkey hlen hvlen hmbuf hvbuf ht ht'
  obtain rfl := Host.Outcome.next.inj ((exec_of_accepts ha).symm.trans ht)
  obtain rfl := Host.Outcome.next.inj ((exec_of_accepts ha').symm.trans ht')
  obtain ⟨u, -, hrun, hu⟩ := accepted_completes ha
  obtain ⟨u', -, hrun', hu'⟩ := accepted_completes ha'
  rw [endingOf_congr i hkey hlen hvlen hmbuf hvbuf] at hu'
  rw [stepsOf, hlen] at hrun'
  obtain ⟨hphase, hblock, hround⟩ := hu.seq
  obtain ⟨hphase', hblock', hround'⟩ := hu'.seq
  refine ⟨u, u', hrun, hrun', hu'.errcode.trans hu.errcode.symm, BitVec.eq_of_toNat_eq (hu'.outlen.trans hu.outlen.symm),
    hu'.verifyOk.trans hu.verifyOk.symm, hu'.mbuf.trans hu.mbuf.symm, ?_, fun hneeds => ?_⟩
  · exact seq_eq_of_fields (hphase'.trans hphase.symm) (BitVec.eq_of_toNat_eq (hblock'.trans hblock.symm))
      (hround'.trans hround.symm)
  · rw [(hu'.keyed hneeds).2, (hu.keyed hneeds).2, hu'.keyreg, hu.keyreg, hkey]

/-- ENCRYPT leaves what DECRYPT accepts, once LEN is set to its OUTLEN. -/
theorem accepts_decrypt_after_encrypt {s u : State} (ha : s.Accepts .encrypt)
    (hu : Finished s u .none (s.len.toNat + padlen s.len.toNat) (s.len.toNat / 8 + 1) false) :
    State.Accepts { u with len := u.outlen } .decrypt := by
  have hfits := add_padlen_le_nBuf ha.2.2
  obtain ⟨hkey0, hkey1⟩ := ha.2.1 rfl
  refine ⟨hu.busy, fun _ => ⟨hu.key0Set.trans hkey0, hu.key1Set.trans hkey1⟩, ?_⟩
  show u.outlen.toNat ≠ 0 ∧ u.outlen.toNat % 8 = 0 ∧ u.outlen.toNat ≤ Config.nBuf
  rw [hu.outlen]
  refine ⟨?_, ?_, hfits⟩ <;> rw [padlen] <;> omega

/-- Settles O21: DECRYPT finds the ciphertext ENCRYPT left, which decrypts to the padded message. -/
theorem engineRoundTrip : Obligations.EngineRoundTrip := by
  intro s ha
  obtain ⟨u, hrun, hu, -, hmbuf, -⟩ := encrypt_completes ha
  have hlen : u.outlen.toNat = s.len.toNat + padlen s.len.toNat := hu.outlen
  obtain ⟨t', w, hexec, hrun', -, hraw, -, hsome, -⟩ := decryptCompletes _ (accepts_decrypt_after_encrypt ha hu)
  have hblocks : u.outlen.toNat / 8 = s.len.toNat / 8 + 1 := by rw [hlen, add_padlen_div_eight]
  have hcipher : u.mbuf.bytes 0 u.outlen.toNat = cbcEncrypt Config.twist (s.mbuf.bytes 0 s.len.toNat) u.keyreg := by
    rw [hlen, hmbuf, hu.keyreg]
  have hw := hsome _ ((congrArg (cbcDecrypt Config.twist · u.keyreg) hcipher).trans (cbcDecrypt_cbcEncrypt _ _ _))
  have hplain : w.mbuf.bytes 0 u.outlen.toNat = padBytes (s.mbuf.bytes 0 s.len.toNat) :=
    hraw.trans ((congrArg (cbcDecryptRaw Config.twist · u.keyreg) hcipher).trans (cbcDecryptRaw_cbcEncrypt _ _ _))
  have hkept := bytes_of_append_eq hplain
  rw [bytes_length] at hkept
  refine ⟨_, u, t', w, exec_of_accepts ha, hrun, hexec, hblocks ▸ hrun', hw.errcode, ?_, hkept⟩
  exact BitVec.eq_of_toNat_eq (hw.outlen.trans (bytes_length _ _ _))

end Sys2Proof.Machine.Proofs
end
